-- ==== Sys2Proof/Word.lean ====
section
/-! DEFINITION. The data types every other file uses: bits, bytes, words of the event alphabets,
and the five protocol states. -/

namespace Sys2Proof

/-- A line level or a one-bit register (rule R19: `Bit` is 0 or 1; `true` is 1). -/
abbrev Bit := Bool

/-- A register slot, the index pointer, a shift register (rules R18, R19). -/
abbrev Byte := BitVec 8

/-- A bus device address (rule R10). -/
abbrev Addr7 := BitVec 7

/-- A word of one of the event alphabets: its bits, most significant first, as rules R91, R92
and R96 write them. The width tells the alphabet (3 or 18: host event; 4: bus event; 9: frame). -/
abbrev Word := List Bit

/-- The five protocol states, in the document's order (rules R30, R31). -/
inductive ProtoState where
  | idle
  | devAddr
  | read
  | idxPtr
  | write
  deriving DecidableEq, Repr

end Sys2Proof
end

