-- ==== Sys2Proof/Config.lean ====
section
/-! DEFINITION. The implementation parameters of rules R10 to R17: constant for the lifetime of
one engine (rule R45). A state carries its configuration, so a statement about every state is a
statement about every configuration. -/

namespace Sys2Proof

/-- `P_RST_ACTIVE` (rule R13): the level at which the reset input is asserted. -/
inductive ActiveLevel where
  | high
  | low
  deriving DecidableEq, Repr

/-- `P_IDX_INC` (rules R15, R176): when the index pointer advances by one. -/
inductive IdxInc where
  | transfer
  | allButIdx
  | none
  deriving DecidableEq, Repr

/-- `P_CAPTURE_GATE` (rules R16, R201): when the output shift register may load. -/
inductive CaptureGate where
  | always
  | readOnly
  deriving DecidableEq, Repr

/-- `P_WREG_RESET` (rule R17): what reset does to the write registers. -/
inductive WregReset where
  | keep
  | clear
  deriving DecidableEq, Repr

/-- The parameters of one engine. The maps of rule R12 are lists: entry `i` is the slot that
pointer value `i` names, and a value beyond the end names none. -/
structure Config where
  devAddr : Addr7
  nw : Nat
  nr : Nat
  wmap : List (Option Nat)
  rmap : List (Option Nat)
  rstActive : ActiveLevel
  addrAckWrite : Bool
  idxInc : IdxInc
  captureGate : CaptureGate
  wregReset : WregReset
  deriving DecidableEq, Repr

/-- The map `index i names slot i` below a count (rule R12's default). -/
def identityMap (n : Nat) : List (Option Nat) := (List.range n).map some

/-- Configuration K0 of 95_test_vectors.md: the reference values of rules R10 and R11 and the
defaults of rules R12, R14, R15 and R16. The spec leaves `P_RST_ACTIVE` and `P_WREG_RESET` OPEN;
K0's values HIGH and CLEAR are a DESIGN CHOICE (log entry 1), unsafe where a statement rests on
them alone. -/
def Config.reference : Config where
  devAddr := 0x55#7
  nw := 5
  nr := 5
  wmap := identityMap 5
  rmap := identityMap 5
  rstActive := .high
  addrAckWrite := false
  idxInc := .transfer
  captureGate := .always
  wregReset := .clear

end Sys2Proof
end

