-- ==== Sys2Proof/Syntax.lean ====
section
/-! DEFINITION. The opcode table as one inductive: 4 host events, 6 bus events, 8 byte frames,
one constructor per row of spec/opcode_table.json. -/

namespace Sys2Proof

/-- One item of the engine's input. Fields carry the table's names. -/
inductive Instr where
  /-- ENV_CLK (rule R141): the environment sets the CLK level. -/
  | envClk (v : Bit)
  /-- ENV_SDA (rule R142): the environment sets its DATA contribution. -/
  | envSda (v : Bit)
  /-- RST (rule R291): the reset input takes a level. -/
  | rst (v : Bit)
  /-- RREG (rule R203): the application sets read register `k`. -/
  | rreg (k v : Byte)
  /-- CLK_RISE (rule R137): CLK rises with DATA at `d`. -/
  | clkRise (d : Bit)
  /-- CLK_FALL (rule R140): CLK falls with DATA at `d`. -/
  | clkFall (d : Bit)
  /-- START (rule R133): DATA falls while CLK is high. -/
  | start
  /-- DATA_FALL_L (rule R134): DATA falls while CLK is low. -/
  | dataFallL
  /-- STOP (rule R135): DATA rises while CLK is high. -/
  | stop
  /-- DATA_RISE_L (rule R136): DATA rises while CLK is low. -/
  | dataRiseL
  /-- ADDR_R (rule R230): the engine's own address, read direction; `k` is the ack slot. -/
  | addrR (a : Addr7) (k : Bit)
  /-- ADDR_W (rule R231): the engine's own address, write direction; `k` is the ack slot. -/
  | addrW (a : Addr7) (k : Bit)
  /-- ADDR_NM (rule R232): another device's address, direction `r`, ack slot `k`. -/
  | addrNm (b : Addr7) (r k : Bit)
  /-- IDX (rule R233): an index byte and its ack slot. -/
  | idx (p : Byte) (k : Bit)
  /-- WDATA (rule R234): a write-data byte and its ack slot. -/
  | wdata (d : Byte) (k : Bit)
  /-- RDATA_A (rule R235): a read-data byte that the master acknowledges. -/
  | rdataA (r : Byte)
  /-- RDATA_N (rule R236): a read-data byte that the master does not acknowledge. -/
  | rdataN (r : Byte)
  /-- IDLE_FRAME (rule R237): a byte clocked while the engine is in IDLE, and its ack slot. -/
  | idleFrame (x : Byte) (k : Bit)
  deriving DecidableEq, Repr

end Sys2Proof
end

