-- ==== Sys2Proof/WellFormed.lean ====
section
/-! DEFINITION. Which configurations the spec admits (rules R11, R12) and which instructions the
opcode table's fields admit (rules R91, R230 to R232). -/

namespace Sys2Proof

/-- A slot map is admitted when it speaks of pointer values 0 to 255 only, names slots below the
count only, and names no slot twice (rule R12: injective on the values it defines). -/
def mapWellFormed (count : Nat) (m : List (Option Nat)) : Bool :=
  decide (m.length ≤ 256) && m.all (fun e => e.all (fun j => decide (j < count)))
    && decide (m.filterMap id).Nodup

/-- Rules R11 and R12: counts of at most 256, and admitted maps. -/
def Config.wellFormed (c : Config) : Bool :=
  decide (c.nw ≤ 256) && decide (c.nr ≤ 256) && mapWellFormed c.nw c.wmap && mapWellFormed c.nr c.rmap

/-- The limits the table puts on an instruction's fields: a read slot exists (R91), a matching
address is the engine's own (R230, R231), a mismatching one is not (R232). -/
def Instr.wellFormed (c : Config) : Instr → Bool
  | .rreg k _ => decide (k.toNat < c.nr)
  | .addrR a _ => a == c.devAddr
  | .addrW a _ => a == c.devAddr
  | .addrNm b _ _ => b != c.devAddr
  | .envClk _ | .envSda _ | .rst _ => true
  | .clkRise _ | .clkFall _ | .start | .dataFallL | .stop | .dataRiseL => true
  | .idx _ _ | .wdata _ _ | .rdataA _ | .rdataN _ | .idleFrame _ _ => true

end Sys2Proof
end

