-- ==== Sys2Proof/Decode.lean ====
section
/-! DEFINITION. The decoder from words to instructions (30_encoding.md) and, after it, the
encoder, both written from rules R91, R93, R96, R97 and R104. -/

namespace Sys2Proof

/-- Why a word spells no instruction. -/
inductive DecodeError where
  /-- A three-bit word `11v`: the first bits of RREG without its fields (rule R91). -/
  | cutRreg
  /-- RREG names a read slot that is not there (rule R91: `k >= P_NR` is refused). -/
  | noReadSlot (k : Nat)
  /-- An 18-bit word that does not begin with `11` (rule R91). -/
  | noHostEvent
  /-- A bus word whose line keeps its level (rule R94: it spells no bus event). -/
  | noBusEvent
  /-- A word of a width no alphabet has. -/
  | noSuchWidth (n : Nat)
  deriving DecidableEq, Repr

/-- The unsigned value of bits written most significant first (rule R19). -/
def natOfBits (bits : Word) : Nat := bits.foldl (fun n b => 2 * n + b.toNat) 0

/-- The byte spelled by eight bits, most significant first. -/
def byteOfBits (bits : Word) : Byte := BitVec.ofNat 8 (natOfBits bits)

/-- The address spelled by seven bits, most significant first. -/
def addrOfBits (bits : Word) : Addr7 := BitVec.ofNat 7 (natOfBits bits)

/-- The eight bits of a byte in wire order, most significant first (rule R72). -/
def bitsOfByte (v : Byte) : Word :=
  [v.getLsbD 7, v.getLsbD 6, v.getLsbD 5, v.getLsbD 4, v.getLsbD 3, v.getLsbD 2, v.getLsbD 1, v.getLsbD 0]

/-- The seven bits of an address in wire order. -/
def bitsOfAddr (a : Addr7) : Word :=
  [a.getLsbD 6, a.getLsbD 5, a.getLsbD 4, a.getLsbD 3, a.getLsbD 2, a.getLsbD 1, a.getLsbD 0]

/-- Rule R93: the bus-event map; rule R94: a level that does not change spells nothing. -/
def decodeBus (l o n x : Bit) : Except DecodeError Instr :=
  match l, o, n, x with
  | false, false, true, d => .ok (.clkRise d)
  | false, true, false, d => .ok (.clkFall d)
  | true, true, false, true => .ok .start
  | true, true, false, false => .ok .dataFallL
  | true, false, true, true => .ok .stop
  | true, false, true, false => .ok .dataRiseL
  | _, false, false, _ => .error .noBusEvent
  | _, true, true, _ => .error .noBusEvent

/-- Rule R97: the address byte, matched against `P_DEV_ADDR`. -/
def decodeAddr (c : Config) (a : Addr7) (rw k : Bit) : Instr :=
  if a = c.devAddr then (if rw then .addrR a k else .addrW a k) else .addrNm a rw k

/-- Rule R104: the meaning of a byte frame depends on the protocol state and on nothing else.
`data` is the eight data slots, `k` the ack slot. -/
def decodeFrame (c : Config) (st : ProtoState) (data : Word) (k : Bit) : Instr :=
  match st with
  | .idle => .idleFrame (byteOfBits data) k
  | .devAddr => decodeAddr c (addrOfBits (data.take 7)) (data.getD 7 false) k
  | .idxPtr => .idx (byteOfBits data) k
  | .write => .wdata (byteOfBits data) k
  | .read => if k then .rdataN (byteOfBits data) else .rdataA (byteOfBits data)

/-- Rule R91: RREG's fields; a slot that is not there is refused. -/
def decodeRreg (c : Config) (k v : Byte) : Except DecodeError Instr :=
  if k.toNat < c.nr then .ok (.rreg k v) else .error (.noReadSlot k.toNat)

/-- Rule R91: the three-bit host-event words. -/
def decodeHost (a b v : Bit) : Except DecodeError Instr :=
  match a, b with
  | false, false => .ok (.envClk v)
  | false, true => .ok (.envSda v)
  | true, false => .ok (.rst v)
  | true, true => .error .cutRreg

/-- Rule R91: the 18-bit host-event words; `a` and `b` are the first two bits. -/
def decodeLong (c : Config) (a b : Bit) (k v : Byte) : Except DecodeError Instr :=
  if a && b then decodeRreg c k v else .error .noHostEvent

/-- The decoder: total on every list of bits, whose number tells the alphabet. `st` is the protocol
state in which a frame is clocked; the other alphabets do not read it. -/
def decode (c : Config) (st : ProtoState) (w : Word) : Except DecodeError Instr :=
  match w with
  | [a, b, v] => decodeHost a b v
  | [l, o, n, x] => decodeBus l o n x
  | [b7, b6, b5, b4, b3, b2, b1, b0, k] => .ok (decodeFrame c st [b7, b6, b5, b4, b3, b2, b1, b0] k)
  | [a, b, k7, k6, k5, k4, k3, k2, k1, k0, v7, v6, v5, v4, v3, v2, v1, v0] =>
    decodeLong c a b (byteOfBits [k7, k6, k5, k4, k3, k2, k1, k0]) (byteOfBits [v7, v6, v5, v4, v3, v2, v1, v0])
  | _ => .error (.noSuchWidth w.length)

/-- The encoder: the bits of an instruction, first bit first, from the same tables. -/
def encode : Instr → Word
  | .envClk v => [false, false, v]
  | .envSda v => [false, true, v]
  | .rst v => [true, false, v]
  | .rreg k v => [true, true] ++ bitsOfByte k ++ bitsOfByte v
  | .clkRise d => [false, false, true, d]
  | .clkFall d => [false, true, false, d]
  | .start => [true, true, false, true]
  | .dataFallL => [true, true, false, false]
  | .stop => [true, false, true, true]
  | .dataRiseL => [true, false, true, false]
  | .addrR a k => bitsOfAddr a ++ [true, k]
  | .addrW a k => bitsOfAddr a ++ [false, k]
  | .addrNm b r k => bitsOfAddr b ++ [r, k]
  | .idx p k => bitsOfByte p ++ [k]
  | .wdata d k => bitsOfByte d ++ [k]
  | .rdataA r => bitsOfByte r ++ [false]
  | .rdataN r => bitsOfByte r ++ [true]
  | .idleFrame x k => bitsOfByte x ++ [k]

/-- The protocol states in which a word is read as this instruction (rule R104): a byte frame has
one; host and bus events are read alike in every state. -/
def Instr.decodedIn : Instr → ProtoState → Bool
  | .addrR _ _, st | .addrW _ _, st | .addrNm _ _ _, st => st == .devAddr
  | .idx _ _, st => st == .idxPtr
  | .wdata _ _, st => st == .write
  | .rdataA _, st | .rdataN _, st => st == .read
  | .idleFrame _ _, st => st == .idle
  | .envClk _, _ | .envSda _, _ | .rst _, _ | .rreg _ _, _ => true
  | .clkRise _, _ | .clkFall _, _ | .start, _ | .dataFallL, _ | .stop, _ | .dataRiseL, _ => true

/-- The `n` low bits of a number, most significant first. -/
def bitsOfNat : Nat → Nat → Word
  | 0, _ => []
  | n + 1, w => w.testBit n :: bitsOfNat n w

/-- The word that the number `w` spells when the opcode table gives its row `nbits` bits, in
whole bytes: three bytes hold an 18-bit RREG, two bytes a 9-bit frame, one byte a 3-bit host
event (values 0 to 5) or a 4-bit bus event (other values). A 3-bit and a 4-bit word with one
number cannot be told apart; the host event is taken (log entry 6). Exact widths are read as
they stand. -/
def wordOfTable (nbits w : Nat) : Word :=
  match nbits with
  | 24 => bitsOfNat 18 w
  | 16 => bitsOfNat 9 w
  | 8 => if w < 6 then bitsOfNat 3 w else bitsOfNat 4 w
  | n => bitsOfNat n w

/-- The instruction read from a table word, in the configuration and protocol state of
`State.reset` (a frame's number does not say in which state it is clocked: rule R104). A number
that has bits above the word's own is no word. -/
def decodeTableWord (nbits w : Nat) : Option Instr :=
  if w < 2 ^ (wordOfTable nbits w).length then (decode Config.reference .idle (wordOfTable nbits w)).toOption
  else none

end Sys2Proof
end

