-- ==== Sys2Proof/Machine/State.lean ====
section
/-! DEFINITION. The state record of rule R20 (inputs, engine registers, constant configuration),
the reasons a step can stop, and the state right after reset (rule R46 with the bus idle). -/

namespace Sys2Proof.Machine

/-- Everything the spec gives the machine. The wire `sda` and the flags of rule R43 are functions
of these fields and are not stored (rules R25, R43). -/
structure State where
  /-- The constant configuration (rule R45): no step changes it. -/
  cfg : Config
  /-- Level of the CLK line (rule R21). -/
  clk : Bit
  /-- Wired-AND of every other participant's DATA contribution (rule R22). -/
  envSda : Bit
  /-- Level of the asynchronous reset input (rule R23). -/
  rst : Bit
  /-- The read registers, slot 0 first (rule R24). -/
  rreg : List Byte
  /-- Protocol state (rule R30). -/
  st : ProtoState
  /-- Bit counter, 0 to 8 (rule R32). -/
  cnt : BitVec 4
  /-- Index pointer (rule R34). -/
  ptr : Byte
  /-- Input shift register (rule R35). -/
  inSr : Byte
  /-- Output shift register (rule R36). -/
  outSr : Byte
  /-- START detector (rule R37). -/
  startDet : Bit
  /-- START resetter (rule R38). -/
  startRst : Bit
  /-- STOP detector (rule R39). -/
  stopDet : Bit
  /-- STOP resetter (rule R40). -/
  stopRst : Bit
  /-- Captured master acknowledge (rule R41). -/
  mack : Bit
  /-- Output control: 1 released, 0 driven low (rule R42). -/
  sdaRel : Bit
  /-- The write registers, slot 0 first (rule R26). -/
  wreg : List Byte
  /-- Write notification pulses, slot 0 first (rule R28). -/
  update : List Bit
  /-- Read notification pulses, slot 0 first (rule R29). -/
  capture : List Bit
  /-- The model's own field: the words of the events still to come, first to happen first
  (rules R90, R297; log entry 4). -/
  input : List Word
  deriving DecidableEq, Repr

/-- The engine raises no fault: "There is no fatal-error path inside the protocol engine" (rules
R260, R267). So there is no fault to name, and the type has no constructor. -/
inductive Fault where
  deriving DecidableEq, Repr

/-- Why the model has no next state. -/
inductive Refusal where
  /-- Raised by `exec` for an instruction without a meaning yet. Safe: the model stops. -/
  | notModelled (mnemonic : String)
  /-- Raised by `step` when the next word spells no event. For an RREG word beyond the slots rule R91
  says so; for every other such word (rule R94 says only that it produces nothing) the stop is the
  model's choice (log entry 20). Safe: the model stops. -/
  | notAnEvent (e : DecodeError)
  /-- Raised by RREG's meaning for a read slot that is not there (rule R91: such a word spells no
  event). Safe: the model stops. -/
  | noReadSlot (k : Nat)
  /-- Raised by `step` for a configuration the spec does not admit (rules R11, R12; I2, I3).
  Safe: the model stops. -/
  | badConfiguration
  deriving DecidableEq, Repr

/-- The state right after reset: rule R46's register values, under the reference configuration,
with the reset input inactive and the bus idle (state S0 of 95_test_vectors.md). The inputs'
levels (log entry 2), the read registers' bytes (log entry 3) and the empty input (log entry 4)
are a DESIGN CHOICE. -/
def State.reset : State where
  cfg := Config.reference
  clk := true
  envSda := true
  rst := false
  rreg := List.replicate Config.reference.nr 0x00#8
  st := .idle
  cnt := 0#4
  ptr := 0x00#8
  inSr := 0x00#8
  outSr := 0x00#8
  startDet := false
  startRst := false
  stopDet := false
  stopRst := false
  mack := false
  sdaRel := true
  wreg := List.replicate Config.reference.nw 0x00#8
  update := List.replicate Config.reference.nw false
  capture := List.replicate Config.reference.nr false
  input := []

end Sys2Proof.Machine
end

