-- ==== Sys2Proof/Machine/Flags.lean ====
section
/-! DEFINITION. The wire level and the combinational flags of rule R43, each a function of the
state before the edge, and the slot maps they read. The spec's `reader`, `lsb`, `ack`, `match`,
`rw`, `ws`, `inc`, `load` are here `readerMark`, `lsbMark`, `ackMark`, `addrMatch`, `dirFlag`,
`writeStrobe`, `ptrInc`, `loads`. -/

namespace Sys2Proof.Machine

/-- The DATA wire: the wired-AND of the environment's and the engine's contributions (rules R25,
R120). -/
def sda (s : State) : Bit := s.envSda && s.sdaRel

/-- Rule R290: the reset input is at its active level. -/
def asserted (s : State) : Bit :=
  match s.cfg.rstActive with
  | .high => s.rst
  | .low => !s.rst

/-- The slot a pointer value names in a map, if any (rule R12). -/
def slotOf (m : List (Option Nat)) (i : Byte) : Option Nat := (m[i.toNat]?).join

/-- `P_WMAP(ptr)`: the write slot the pointer names (rules R60, R66). -/
def writeSlot (s : State) : Option Nat := slotOf s.cfg.wmap s.ptr

/-- `P_RMAP(ptr)`: the read slot the pointer names (rules R60, R65). -/
def readSlot (s : State) : Option Nat := slotOf s.cfg.rmap s.ptr

/-- Rule R151: position 6. No rule reads it (conflict C7). -/
def readerMark (s : State) : Bit := s.cnt == 6#4 && !s.startDet

/-- Rule R151: position 7, masked by a pending START. -/
def lsbMark (s : State) : Bit := s.cnt == 7#4 && !s.startDet

/-- Rule R151: position 8, masked by a pending START. -/
def ackMark (s : State) : Bit := s.cnt == 8#4 && !s.startDet

/-- Rule R154: the top seven received bits are the engine's address. -/
def addrMatch (s : State) : Bit := s.inSr.extractLsb' 1 7 == s.cfg.devAddr

/-- Rule R155: the direction flag, 1 when the slave transmits. -/
def dirFlag (s : State) : Bit := s.inSr.getLsbD 0

/-- A matching read-direction address is being received (rules R176, R201, R205, R206). -/
def readAddressed (s : State) : Bit := s.st == .devAddr && addrMatch s && dirFlag s

/-- Rule R178: the write strobe. -/
def writeStrobe (s : State) : Bit := ackMark s && s.st == .write

/-- Rule R176: the pointer advances at this ack marker. -/
def ptrInc (s : State) : Bit :=
  match s.cfg.idxInc with
  | .transfer => readAddressed s || s.st == .read || s.st == .write
  | .allButIdx => s.st != .idxPtr
  | .none => false

/-- Rule R201: the state condition on a load. -/
def loadGate (s : State) : Bit :=
  s.cfg.captureGate == .always || readAddressed s || s.st == .read

/-- Rule R201: the output shift register loads at this edge. -/
def loads (s : State) : Bit := lsbMark s && (readSlot s).isSome && loadGate s

/-- Rule R205: the engine drives the acknowledge slot that follows this lsb marker. -/
def driveAck (s : State) : Bit :=
  (s.st == .devAddr && addrMatch s && (dirFlag s || s.cfg.addrAckWrite)) || s.st == .idxPtr || s.st == .write

/-- Rule R206: the engine transmits after this ack marker. -/
def contRead (s : State) : Bit := (s.st == .read && s.mack) || readAddressed s

end Sys2Proof.Machine
end

