-- ==== Sys2Proof/Machine/Operands.lean ====
section
/-! DEFINITION. The operand forms: the slots of a byte frame (rules R96 to R102) and the line
levels a bus event names (rule R92). -/

namespace Sys2Proof.Machine

/-- A byte with one bit shifted in at bit 0 (rule R19's `shl`). -/
def shl (v : Byte) (d : Bit) : Byte := v.extractLsb' 0 7 ++ BitVec.ofBool d

/-- The nine slots of a frame: the byte most significant bit first, then the ack slot (rule R96). -/
def frameSlots (v : Byte) (k : Bit) : List Bit := bitsOfByte v ++ [k]

/-- The address byte's nine slots (rule R97). -/
def addrSlots (a : Addr7) (dir k : Bit) : List Bit := bitsOfAddr a ++ [dir, k]

/-- The environment's contribution that puts level `b` on the wire: it pulls low only where the
engine does not already, so it releases every slot the engine drives (rules R102, R108, R299;
log entry 7). -/
def slotLevel (b : Bit) (s : State) : Bit := b || !s.sdaRel

/-- A CLK bus event's word fits the lines: CLK is at the old level, DATA at the other line's
level (rule R92). -/
def clkEventFits (old data : Bit) (s : State) : Bit := s.clk == old && sda s == data

/-- A DATA bus event's word fits the lines: the wire is at the old level, CLK at the other line's
level, and the engine does not hold the wire (rules R92, R94, R135). -/
def dataEventFits (old clk : Bit) (s : State) : Bit := sda s == old && s.clk == clk && s.sdaRel

end Sys2Proof.Machine
end

