-- ==== Sys2Proof/Machine/Ops.lean ====
section
/-! DEFINITION. The named operations over the register file and the registers: `RRead`, `WWrite`,
the notification pulses, and the reset override, which is the only thing on this engine that
takes the place of an exception (rules R267, R292). -/

namespace Sys2Proof.Machine

/-- `RRead(k)` (rule R65). Only a configuration whose map names a slot that is not there would
reach the default. -/
def rread (s : State) (k : Nat) : Byte := s.rreg.getD k 0x00#8

/-- The byte of write register `j`, if the slot is there (rule R26). -/
def wregAt (s : State) (j : Nat) : Option Byte := s.wreg[j]?

/-- `WWrite(j, v)` (rule R66) on the array of write registers. -/
def wwrite (w : List Byte) (j : Nat) (v : Byte) : List Byte := w.set j v

/-- The application's write of a read register (rule R203). -/
def setRreg (s : State) (k : Nat) (v : Byte) : State := { s with rreg := s.rreg.set k v }

/-- A pulse vector of `n` bits: 1 at the named slot when the condition holds, 0 elsewhere (rules
R180, R202). -/
def pulseVector (n : Nat) (cond : Bit) (slot : Option Nat) : List Bit :=
  (List.range n).map (fun k => cond && slot == some k)

/-- Rule R46's last row: the write registers under reset. -/
def wregUnderReset (s : State) : List Byte :=
  match s.cfg.wregReset with
  | .keep => s.wreg
  | .clear => List.replicate s.cfg.nw 0x00#8

/-- Rule R292: every engine register takes its reset value; the inputs stay. -/
def resetRegisters (s : State) : State :=
  { s with
    st := .idle, cnt := 0#4, ptr := 0x00#8, inSr := 0x00#8, outSr := 0x00#8
    startDet := false, startRst := false, stopDet := false, stopRst := false
    mack := false, sdaRel := true
    wreg := wregUnderReset s
    update := List.replicate s.cfg.nw false
    capture := List.replicate s.cfg.nr false }

/-- The register file is in its one canonical form: exactly one byte for each slot that is there,
and one pulse bit beside it (rules R20, R60, R64). -/
def Memory.wf (s : State) : Bool :=
  s.wreg.length == s.cfg.nw && s.rreg.length == s.cfg.nr
    && s.update.length == s.cfg.nw && s.capture.length == s.cfg.nr

end Sys2Proof.Machine
end

