-- ==== Sys2Proof/Machine/Edges.lean ====
section
/-! DEFINITION. The next-state function of every engine register (files 41 to 43), the edge
handlers that apply them as one batch (rules R133 to R140), and `ProcessEvent` (rule R123). -/

namespace Sys2Proof.Machine

/-- Rule R150: the bit counter. -/
def nextCnt (s : State) : BitVec 4 := if ackMark s || s.startDet then 0#4 else s.cnt + 1#4

/-- Rule R153: the input shift register at a falling edge. -/
def nextInFall (s : State) : Byte := if s.stopDet then 0x00#8 else s.inSr

/-- Rule R171: the transition table at the ack marker. -/
def transition (st : ProtoState) (hit dir acked : Bit) : ProtoState :=
  match st with
  | .idle => .idle
  | .devAddr => if hit then (if dir then .read else .idxPtr) else .idle
  | .read => if acked then .read else .idle
  | .idxPtr => .write
  | .write => .write

/-- Rule R170: the protocol state; START over STOP over the table. -/
def nextSt (s : State) : ProtoState :=
  if s.startDet then .devAddr
  else if s.stopDet then .idle
  else if ackMark s then transition s.st (addrMatch s) (dirFlag s) s.mack
  else s.st

/-- Rule R175: the index pointer; STOP over the index load over the increment. -/
def nextPtr (s : State) : Byte :=
  if s.stopDet then 0x00#8
  else if ackMark s && s.st == .idxPtr then s.inSr
  else if ackMark s && ptrInc s then s.ptr + 1#8
  else s.ptr

/-- Rule R179: the write registers; rule R181: an index no slot has stores nothing. -/
def nextWreg (s : State) : List Byte :=
  if writeStrobe s then
    match writeSlot s with
    | some j => wwrite s.wreg j s.inSr
    | none => s.wreg
  else s.wreg

/-- Rule R180: the `update` pulses. -/
def nextUpdate (s : State) : List Bit := pulseVector s.cfg.nw (writeStrobe s) (writeSlot s)

/-- Rule R200: the output shift register; a load over the STOP clear over the shift. -/
def nextOut (s : State) : Byte :=
  if loads s then
    match readSlot s with
    | some k => rread s k
    | none => shl s.outSr false
  else if s.stopDet then 0x00#8
  else shl s.outSr false

/-- Rule R202: the `capture` pulses. -/
def nextCapture (s : State) : List Bit := pulseVector s.cfg.nr (loads s) (readSlot s)

/-- Rule R204: the output control. -/
def nextRel (s : State) : Bit :=
  if s.startDet then true
  else if lsbMark s then !driveAck s
  else if ackMark s then (if contRead s then s.outSr.getLsbD 7 else true)
  else if s.st == .read then s.outSr.getLsbD 7
  else true

/-- Rule R140: the falling-edge evaluation, every register from the state before the edge. -/
def fallingEdge (s : State) : State :=
  { s with
    cnt := nextCnt s
    st := nextSt s
    ptr := nextPtr s
    wreg := nextWreg s
    update := nextUpdate s
    outSr := nextOut s
    capture := nextCapture s
    inSr := nextInFall s
    sdaRel := nextRel s }

/-- Rule R137: the rising edge with DATA at `d`; rules R129 and R132: a resetter that is now 1
clears its detector in the same event. -/
def risingEdge (d : Bit) (s : State) : State :=
  { s with
    startRst := s.startDet
    stopRst := s.stopDet
    inSr := if ackMark s then s.inSr else shl s.inSr d
    mack := if ackMark s then !d else s.mack
    startDet := false
    stopDet := false }

/-- Rules R133 and R134: DATA falls; the START detector samples CLK unless it is held in reset. -/
def dataFall (s : State) : State :=
  { s with startDet := if s.startRst then s.startDet else s.clk }

/-- Rules R135 and R136: DATA rises; the STOP detector samples CLK unless it is held in reset. -/
def dataRise (s : State) : State :=
  { s with stopDet := if s.stopRst then s.stopDet else s.clk }

/-- The CLK handlers of rule R123: `clk0` is the level before the event. -/
def clkHandler (clk0 : Bit) (s : State) : State :=
  if !clk0 && s.clk then risingEdge (sda s) s
  else if clk0 && !s.clk then fallingEdge s
  else s

/-- The DATA handlers of rule R123: `sda0` is the wire before the event. A drive change of the
engine's own is an edge like any other (rule R125). -/
def dataHandler (sda0 : Bit) (s : State) : State :=
  if sda0 && !sda s then dataFall s
  else if !sda0 && sda s then dataRise s
  else s

/-- `ProcessEvent` (rule R123) once the event has written its input: `s0` is the state before the
event and `s` the same state with that one input changed. Reset overrides every handler (rules
R292, R293). -/
def react (s0 s : State) : State :=
  if asserted s then resetRegisters s
  else dataHandler (sda s0) (clkHandler s0.clk s)

/-- The host event `ENV_CLK(v)`, processed (rule R141). -/
def driveClk (v : Bit) (s : State) : State := react s { s with clk := v }

/-- The host event `ENV_SDA(v)`, processed (rule R142). -/
def driveSda (v : Bit) (s : State) : State := react s { s with envSda := v }

/-- The host event `RST(v)`, processed (rule R291). -/
def driveRst (v : Bit) (s : State) : State := react s { s with rst := v }

/-- The host event `RREG(k, v)`, processed (rule R203). -/
def applyRreg (k : Nat) (v : Byte) (s : State) : State := react s (setRreg s k v)

/-- One bit slot (rule R95; BIT of rule R108): the environment puts the level on the wire while CLK
is low, raises CLK, lowers CLK. -/
def clockSlot (b : Bit) (s : State) : State :=
  driveClk false (driveClk true (driveSda (slotLevel b s) s))

/-- The slots of a list, clocked first to last. -/
def clockSlots (bits : List Bit) (s : State) : State := bits.foldl (fun t b => clockSlot b t) s

/-- A byte frame starts at a falling edge: when CLK is still high, that edge comes first; when CLK
is low already, this is no event (44_transactions.md, frame conventions; log entry 8). -/
def openFrame (s : State) : State := driveClk false s

/-- A byte frame (rule R96): the opening edge, then its nine slots. A byte period starts at the edge
that sets `cnt` to 0; that a frame met at another `cnt` is clocked all the same, its nine slots from
that position on, is the model's choice (log entry 19). -/
def clockFrame (bits : List Bit) (s : State) : State := clockSlots bits (openFrame s)

end Sys2Proof.Machine
end

