-- ==== Sys2Proof/Machine/BusEvents.lean ====
section
/-! DEFINITION. The meanings of the six bus events (rules R133 to R137, R140). A bus event follows
from a host event (rule R92): where the word's old levels are the lines' present ones, the
environment makes that edge; where they are not, no such edge can occur and nothing changes
(rules R92, R94; log entry 9). -/

namespace Sys2Proof.Machine

/-- CLK_RISE, word `001d`, rule R137. -/
def execClkRise (d : Bit) (s : State) : Host.Outcome State Fault Refusal :=
  .next (if clkEventFits false d s then driveClk true s else s)

/-- CLK_FALL, word `010d`, rule R140. -/
def execClkFall (d : Bit) (s : State) : Host.Outcome State Fault Refusal :=
  .next (if clkEventFits true d s then driveClk false s else s)

/-- START, word `1101`, rule R133. -/
def execStart (s : State) : Host.Outcome State Fault Refusal :=
  .next (if dataEventFits true true s then driveSda false s else s)

/-- DATA_FALL_L, word `1100`, rule R134. -/
def execDataFallL (s : State) : Host.Outcome State Fault Refusal :=
  .next (if dataEventFits true false s then driveSda false s else s)

/-- STOP, word `1011`, rule R135. -/
def execStop (s : State) : Host.Outcome State Fault Refusal :=
  .next (if dataEventFits false true s then driveSda true s else s)

/-- DATA_RISE_L, word `1010`, rule R136. -/
def execDataRiseL (s : State) : Host.Outcome State Fault Refusal :=
  .next (if dataEventFits false false s then driveSda true s else s)

end Sys2Proof.Machine
end

