-- ==== Sys2Proof/Machine/Frames.lean ====
section
/-! DEFINITION. The meanings of the eight byte frames (rules R230 to R237). A frame is the nine
slots the table writes, clocked through the edge rules, which are normative
(44_transactions.md); what it does depends on the protocol state (rule R104), and the frame's
name says in which state the table lists it. -/

namespace Sys2Proof.Machine

/-- ADDR_R, rule R230: `aaaaaaa1k`. -/
def execAddrR (a : Addr7) (k : Bit) (s : State) : Host.Outcome State Fault Refusal :=
  .next (clockFrame (addrSlots a true k) s)

/-- ADDR_W, rule R231: `aaaaaaa0k`. -/
def execAddrW (a : Addr7) (k : Bit) (s : State) : Host.Outcome State Fault Refusal :=
  .next (clockFrame (addrSlots a false k) s)

/-- ADDR_NM, rule R232: `bbbbbbbrk`. -/
def execAddrNm (b : Addr7) (r k : Bit) (s : State) : Host.Outcome State Fault Refusal :=
  .next (clockFrame (addrSlots b r k) s)

/-- IDX, rule R233: `ppppppppk`. -/
def execIdx (p : Byte) (k : Bit) (s : State) : Host.Outcome State Fault Refusal :=
  .next (clockFrame (frameSlots p k) s)

/-- WDATA, rule R234: `ddddddddk`. -/
def execWdata (d : Byte) (k : Bit) (s : State) : Host.Outcome State Fault Refusal :=
  .next (clockFrame (frameSlots d k) s)

/-- RDATA_A, rule R235: `rrrrrrrr0`. -/
def execRdataA (r : Byte) (s : State) : Host.Outcome State Fault Refusal :=
  .next (clockFrame (frameSlots r false) s)

/-- RDATA_N, rule R236: `rrrrrrrr1`. -/
def execRdataN (r : Byte) (s : State) : Host.Outcome State Fault Refusal :=
  .next (clockFrame (frameSlots r true) s)

/-- IDLE_FRAME, rule R237: `xxxxxxxxk`. -/
def execIdleFrame (x : Byte) (k : Bit) (s : State) : Host.Outcome State Fault Refusal :=
  .next (clockFrame (frameSlots x k) s)

end Sys2Proof.Machine
end

