-- ==== Sys2Proof/Machine/HostEvents.lean ====
section
/-! DEFINITION. The meanings of the four host events (rules R141, R142, R291, R203). -/

namespace Sys2Proof.Machine

/-- ENV_CLK(v), rule R141. -/
def execEnvClk (v : Bit) (s : State) : Host.Outcome State Fault Refusal := .next (driveClk v s)

/-- ENV_SDA(v), rule R142. -/
def execEnvSda (v : Bit) (s : State) : Host.Outcome State Fault Refusal := .next (driveSda v s)

/-- RST(v), rule R291. -/
def execRst (v : Bit) (s : State) : Host.Outcome State Fault Refusal := .next (driveRst v s)

/-- RREG(k, v), rule R203; a slot that is not there spells no event (rule R91). -/
def execRreg (k v : Byte) (s : State) : Host.Outcome State Fault Refusal :=
  if k.toNat < s.cfg.nr then .next (applyRreg k.toNat v s) else .refused (.noReadSlot k.toNat)

end Sys2Proof.Machine
end

