-- ==== Sys2Proof/Machine/Dispatch.lean ====
section
/-! DEFINITION. One arm per constructor of Instr. -/

namespace Sys2Proof.Machine

def exec (i : Instr) (s : State) : Host.Outcome State Fault Refusal :=
  match i with
  | .envClk v => Sys2Proof.Machine.execEnvClk v s
  | .envSda v => Sys2Proof.Machine.execEnvSda v s
  | .rst v => Sys2Proof.Machine.execRst v s
  | .rreg k v => Sys2Proof.Machine.execRreg k v s
  | .clkRise d => Sys2Proof.Machine.execClkRise d s
  | .clkFall d => Sys2Proof.Machine.execClkFall d s
  | .start => Sys2Proof.Machine.execStart s
  | .dataFallL => Sys2Proof.Machine.execDataFallL s
  | .stop => Sys2Proof.Machine.execStop s
  | .dataRiseL => Sys2Proof.Machine.execDataRiseL s
  | .addrR a k => Sys2Proof.Machine.execAddrR a k s
  | .addrW a k => Sys2Proof.Machine.execAddrW a k s
  | .addrNm b r k => Sys2Proof.Machine.execAddrNm b r k s
  | .idx p k => Sys2Proof.Machine.execIdx p k s
  | .wdata d k => Sys2Proof.Machine.execWdata d k s
  | .rdataA r => Sys2Proof.Machine.execRdataA r s
  | .rdataN r => Sys2Proof.Machine.execRdataN r s
  | .idleFrame x k => Sys2Proof.Machine.execIdleFrame x k s

end Sys2Proof.Machine
end

