-- ==== Sys2Proof/Machine/Fetch.lean ====
section
/-! DEFINITION. How the next word of the input is read: the helpers `step` and `withFetchWord`
call. -/

namespace Sys2Proof.Machine

/-- The protocol state in which a frame that comes next would be clocked (rule R104): the one after
the frame's opening edge (log entry 10), whatever `cnt` is then (log entry 19). -/
def frameState (s : State) : ProtoState := (openFrame s).st

/-- The instruction a word spells in this state. -/
def fetchDecode (s : State) (w : Word) : Except DecodeError Instr := decode s.cfg (frameState s) w

/-- The state with a word put before the rest of the input, as the next event to come. -/
def pushWord (s : State) (w : Word) : State := { s with input := w :: s.input }

/-- The state with a table word as the next event to come. A number with bits above the word's own
spells no word; the empty word, which the decoder refuses, stands for it. -/
def pushTableWord (s : State) (nbits w : Nat) : State :=
  pushWord s (if w < 2 ^ (wordOfTable nbits w).length then wordOfTable nbits w else [])

end Sys2Proof.Machine
end

