-- ==== Sys2Proof/Machine/Step.lean ====
section
/-! DEFINITION. One step: the next event of the input is taken, decoded and processed. -/

namespace Sys2Proof.Machine

/-- One step. A configuration the spec does not admit is refused (rules R11, R12); with no event to
come the bus is idle and nothing changes (rules R244, R277); a word that spells no event is
refused, which rule R91 says of RREG words only and log entry 20 chooses for the others; otherwise
the word is taken off the input and its instruction runs. -/
def step (s : State) : Host.Outcome State Fault Refusal :=
  if s.cfg.wellFormed then
    match s.input with
    | [] => .next s
    | w :: rest =>
      match fetchDecode s w with
      | .ok i => exec i { s with input := rest }
      | .error e => .refused (.notAnEvent e)
  else .refused .badConfiguration

/-- The state with a table word placed as the next event to come (log entry 5). -/
def State.withFetchWord (s : State) (nbits w : Nat) : State := pushTableWord s nbits w

end Sys2Proof.Machine
end

