-- ==== Sys2Proof/Safety.lean ====
section
/-! DEFINITION. What claims about the engine are stated in: the invariants of rules R49, R157, R211
and R270, frame and run vocabulary (R230 to R239, R297), and the predicates over runs that the
spec keeps for claims and never in the engine (DriveConflict R144, Booted R296, WellFormedMaster
R299). -/

namespace Sys2Proof.Machine

/-- At most one bit of a pulse vector is 1 (rule R49). -/
def atMostOne (l : List Bit) : Bool := decide (l.count true ≤ 1)

/-- Rule R49's last clause: while reset is asserted every register holds its reset value. -/
def heldInReset (s : State) : Bool := !asserted s || s == resetRegisters s

/-- What a step keeps (rules R49, R157, R270): the configuration is admitted, the register file has
its canonical form, `cnt` is in 0..8, a resetter excludes its detector, at most one pulse bit is 1
and `update` and `capture` never pulse together, and reset holds the registers. -/
def engineInv (s : State) : Bool :=
  s.cfg.wellFormed && Memory.wf s && decide (s.cnt ≤ 8#4)
    && !(s.startRst && s.startDet) && !(s.stopRst && s.stopDet)
    && atMostOne s.update && atMostOne s.capture && !(s.update.contains true && s.capture.contains true)
    && heldInReset s

/-- Rule R211 as an invariant: at position `n` of a byte the low `n + 1` bits of `out_sr` have been
shifted out, so at the lsb marker nothing is left. -/
def outSrDrained (s : State) : Bool :=
  decide (s.cnt ≤ 8#4) && (s.cnt == 8#4 || s.outSr <<< (7 - s.cnt.toNat) == 0x00#8)

/-- A register value in range for power-up (rules R47, R295): any value of each field, in arrays of
the configured length. -/
def poweredUp (s : State) : Bool := s.cfg.wellFormed && Memory.wf s && decide (s.cnt ≤ 8#4)

/-- Rule R297: a run is quiescent at its end. -/
def quiescent (s : State) : Bool := s.clk && sda s && !s.startDet

/-- The start of a byte frame (44_transactions.md): the falling edge that set `cnt` to 0 is over,
and reset is not asserted. -/
def atFrameStart (s : State) : Bool := !s.clk && s.cnt == 0#4 && !asserted s

/-- The bit slots of rule R209: (a) the ack slot of the engine's own address, (b) the ack slot of a
received index or data byte, (c) the data slots of a transmitted byte. -/
def engineSlot (s : State) : Bool :=
  match s.st with
  | .idle => false
  | .devAddr => s.cnt == 8#4 && addrMatch s && (dirFlag s || s.cfg.addrAckWrite)
  | .idxPtr => s.cnt == 8#4
  | .write => s.cnt == 8#4
  | .read => decide (s.cnt ≤ 7#4)

/-- The state after an instruction that has a next state; the same state where it has none. -/
def applyInstr (i : Instr) (s : State) : State :=
  match exec i s with
  | .next t => t
  | .fault _ => s
  | .refused _ => s

/-- The end state of a run (rule R297): the items in order. -/
def runItems (is : List Instr) (s : State) : State := is.foldl (fun t i => applyInstr i t) s

/-- The byte `in_sr` holds after each item of a run: in READ the engine samples the wire it
drives, so this is what the master receives (rules R152, R235). -/
def receivedBytes : List Instr → State → List Byte
  | [], _ => []
  | i :: is, s => (applyInstr i s).inSr :: receivedBytes is (applyInstr i s)

/-- The pointer `n` transferred bytes after `p` (rule R176): it stays under NONE. -/
def pointerAfter (c : Config) (p : Byte) (n : Nat) : Byte :=
  if c.idxInc = .none then p else p + BitVec.ofNat 8 n

/-- The byte a read at pointer `p` transmits: the mapped read register, or 0x00 when none is mapped
(rules R211, R239). -/
def readByte (s : State) (p : Byte) : Byte :=
  match slotOf s.cfg.rmap p with
  | some k => s.rreg.getD k 0x00#8
  | none => 0x00#8

/-- The write registers after bytes are stored from pointer `p` on (rule R238): each in the slot its
pointer value names, dropped where none is named. -/
def storeBytes (c : Config) : Byte → List Byte → List Byte → List Byte
  | _, [], w => w
  | p, v :: vs, w =>
    storeBytes c (pointerAfter c p 1) vs
      (match slotOf c.wmap p with
       | some j => w.set j v
       | none => w)

/-- A pulse vector of `n` bits is 1 at the named slot and 0 elsewhere (rules R180, R202). -/
def pulsesAt (l : List Bit) (n : Nat) (slot : Option Nat) : Prop :=
  l.length = n ∧ ∀ j, j < n → l[j]? = some (decide (slot = some j))

/-- The four host events (rule R90). -/
def isHostEvent : Instr → Bool
  | .envClk _ | .envSda _ | .rst _ | .rreg _ _ => true
  | .clkRise _ | .clkFall _ | .start | .dataFallL | .stop | .dataRiseL => false
  | .addrR _ _ | .addrW _ _ | .addrNm _ _ _ | .idx _ _ | .wdata _ _ => false
  | .rdataA _ | .rdataN _ | .idleFrame _ _ => false

/-- The level that asserts reset (rule R290). -/
def activeLevel (c : Config) : Bit :=
  match c.rstActive with
  | .high => true
  | .low => false

/-- The byte the wire carries in a frame whose environment offers `v`: in READ the engine's own bits
are on it, the first from `sda_rel` and the others from `out_sr` (rules R204, R207, R235); in the
other states the engine releases after the first slot (rule R208). -/
def wireByte (v : Byte) (s : State) : Byte :=
  match s.st with
  | .read => v &&& (s.outSr >>> 1 ||| (if s.sdaRel then 0x80#8 else 0x00#8))
  | .idle | .devAddr | .idxPtr | .write => v &&& (if s.sdaRel then 0xFF#8 else 0x7F#8)

/-- The state whose flags decide at a frame's lsb edge: the byte is in, no condition is pending. -/
def atLsb (v : Byte) (s : State) : State :=
  { s with inSr := wireByte v s, cnt := 7#4, startDet := false, stopDet := false }

/-- The byte in `out_sr` after a frame's lsb edge: the addressed read register where the load
happens, and otherwise nothing is left of the byte before (rules R201, R211). -/
def preload (v : Byte) (s : State) : Byte := if loadGate (atLsb v s) then readByte s s.ptr else 0x00#8

/-- The state whose flags decide at a frame's ack edge: the ack slot has been sampled. -/
def atAck (v : Byte) (k : Bit) (s : State) : State :=
  { atLsb v s with cnt := 8#4, mack := !(k && !driveAck (atLsb v s)) }

/-- The net effect of one byte frame (44_transactions.md) in any protocol state: the environment
offers the byte `v` and the ack level `k`. -/
def netFrame (v : Byte) (k : Bit) (s : State) : State :=
  let a := atAck v k s
  { s with
    envSda := k || driveAck (atLsb v s)
    st := transition s.st (addrMatch a) (dirFlag a) a.mack
    cnt := 0#4
    ptr := if s.st = .idxPtr then wireByte v s else if ptrInc a then s.ptr + 1#8 else s.ptr
    inSr := wireByte v s
    outSr := preload v s <<< 1
    startDet := false
    startRst := false
    stopDet := false
    stopRst := false
    mack := a.mack
    sdaRel := if contRead a then (preload v s).getLsbD 7 else true
    wreg := if s.st = .write then storeBytes s.cfg s.ptr [wireByte v s] s.wreg else s.wreg
    update := pulseVector s.cfg.nw (s.st == .write) (writeSlot s)
    capture := List.replicate s.cfg.nr false }

/-! ### Predicates over runs (rules R144, R296, R299) -/

/-- One event of a run with the states around it. -/
structure RunMoment where
  before : State
  event : Instr
  after : State
  deriving DecidableEq, Repr

/-- The moments of a run, first to last (rule R297). -/
def runMoments : List Instr → State → List RunMoment
  | [], _ => []
  | i :: is, s => ⟨s, i, applyInstr i s⟩ :: runMoments is (applyInstr i s)

/-- A CLK rising edge happens at this moment. -/
def RunMoment.rises (m : RunMoment) : Bit := !m.before.clk && m.after.clk

/-- A falling-edge evaluation happens at this moment (rules R140, R293). -/
def RunMoment.falls (m : RunMoment) : Bit := m.before.clk && !m.after.clk && !asserted m.after

/-- What the master means at an event. It is the run's, never the engine's: the engine has no record
of it (rule R144). -/
inductive MasterIntent where
  /-- To receive a bit, or nothing. -/
  | receive
  /-- To transmit a bit: a data bit, or the acknowledge of a read byte. -/
  | transmit (b : Bit)
  /-- To make a START or a STOP in the high phase that begins. -/
  | condition
  deriving DecidableEq, Repr

/-- The master needs DATA high for what it means. -/
def MasterIntent.needsHigh : MasterIntent → Bit
  | .receive => false
  | .transmit b => b
  | .condition => true

/-- One event of a master's run, with what the master means at it. -/
structure MasterMove where
  event : Instr
  intent : MasterIntent
  deriving DecidableEq, Repr

/-- Rule R144 at one move from state `s`: at a CLK rising edge the engine pulls DATA low, nobody else
does, and the master means to transmit a 1 or to make a START or a STOP. -/
def conflictAt (m : MasterMove) (s : State) : Bit :=
  (RunMoment.mk s m.event (applyInstr m.event s)).rises && m.intent.needsHigh && s.envSda && !s.sdaRel

/-- Rule R144: a DriveConflict occurs somewhere on the run. -/
def DriveConflict : List MasterMove → State → Bit
  | [], _ => false
  | m :: ms, s => conflictAt m s || DriveConflict ms (applyInstr m.event s)

/-- What a participant knows from the two wires alone, whether or not this engine takes part: the
byte boundaries of rule R299 are the bus's, not the engine's `cnt`, which a reset realigns (rule
R294). -/
structure BusView where
  /-- A START has been made and no STOP since. -/
  busy : Bit
  /-- CLK has not fallen since the START. -/
  fresh : Bit
  /-- Bit slot of the current byte, 0 to 8. -/
  pos : Nat
  /-- The current byte is the address byte: no ack slot has ended since the START. -/
  first : Bit
  /-- The direction bit of the address byte: 1 for a read. -/
  reading : Bit
  /-- DATA was low in the last ack slot. -/
  acked : Bit
  deriving DecidableEq, Repr

/-- The view after CLK falls: the first fall after a START begins a byte, and every ninth after it
(rule R96). -/
def BusView.clkFell (b : BusView) : BusView :=
  if b.fresh then { b with fresh := false, pos := 0, first := true, reading := false, acked := false }
  else if b.pos < 8 then { b with pos := b.pos + 1 }
  else { b with pos := 0, first := false }

/-- The view after CLK rises with DATA at `d`: the direction bit and the ack slot are sampled (rules
R97, R102). -/
def BusView.clkRose (d : Bit) (b : BusView) : BusView :=
  if b.pos = 7 ∧ b.first = true then { b with reading := d }
  else if b.pos = 8 then { b with acked := !d }
  else b

/-- The view after an event that takes the state `s` to `t`: an edge of CLK, or a START or STOP on
the wire. -/
def BusView.next (s t : State) (b : BusView) : BusView :=
  if s.clk && !t.clk then b.clkFell
  else if !s.clk && t.clk then b.clkRose (sda t)
  else if s.clk && sda s && !sda t then { b with busy := true, fresh := true }
  else if s.clk && !sda s && sda t then { b with busy := false, fresh := false }
  else b

/-- A byte boundary after an ack slot (rule R299 item 2). -/
def BusView.boundary (b : BusView) : Bit := b.busy && !b.fresh && !b.first && b.pos == 0

/-- The byte just read was acknowledged, so the next one is on DATA (rule R299 item 4, rule R302). -/
def BusView.readGoesOn (b : BusView) : Bit := b.reading && b.acked

/-- A master may raise CLK. In a slot the engine drives, DATA is released and the master receives
(rule R299 item 3, as rule R311 uses it); in the ack slot of a read byte the master drives its
acknowledge (item 4). -/
def mayRaiseClk (b : BusView) (intent : MasterIntent) (s : State) : Bit :=
  (!engineSlot s || (s.envSda && intent == .receive))
    && (!(b.reading && !b.first && b.pos == 8) || intent == .transmit s.envSda)

/-- A master may change its DATA contribution to `v` while CLK is high: only to make a START, on an
idle bus or at a byte boundary after an ack slot, or a STOP, at such a boundary (items 1 and 2); not
where a read goes on (item 4); not in a blind window (item 5). -/
def mayMakeCondition (b : BusView) (v : Bit) (s : State) : Bit :=
  s.sdaRel && (b.boundary || (!v && !b.busy)) && !(b.busy && b.readGoesOn) && !s.startRst && !s.stopRst

/-- One move a well-formed master may make in this state (rule R299; log entry 16). RST and RREG are
the reset source's and the application's; bus events and frames are no host events. -/
def masterMay (b : BusView) (m : MasterMove) (s : State) : Bit :=
  match m.event with
  | .envClk v => s.clk || !v || mayRaiseClk b m.intent s
  | .envSda v => !s.clk || v == s.envSda || mayMakeCondition b v s
  | .rst _ => true
  | .rreg k _ => decide (k.toNat < s.cfg.nr)
  | .clkRise _ | .clkFall _ | .start | .dataFallL | .stop | .dataRiseL => false
  | .addrR _ _ | .addrW _ _ | .addrNm _ _ _ | .idx _ _ | .wdata _ _ => false
  | .rdataA _ | .rdataN _ | .idleFrame _ _ => false

/-- Rule R299, the premise WellFormedMaster, over a run that begins with the bus as `b` says. -/
def wellFormedMaster : List MasterMove → BusView → State → Bit
  | [], _, _ => true
  | m :: ms, b, s =>
    masterMay b m s && wellFormedMaster ms (b.next s (applyInstr m.event s)) (applyInstr m.event s)

/-- What the boot premise needs to know of a claim (rule R296 items 3 to 5). -/
structure BootClaim where
  /-- The claim accepts that the engine ignores traffic until the next START. -/
  midBus : Bit
  /-- The write registers the claim speaks of. -/
  wregs : List Nat
  /-- The read registers the claim expects to be read. -/
  rregs : List Nat
  deriving DecidableEq, Repr

/-- What a run has done so far, as far as rule R296 asks. -/
structure BootLog where
  /-- An event with reset asserted has come (item 1). -/
  reset : Bit
  /-- The slots a write strobe has written since (item 4). -/
  strobed : List Nat
  /-- The read registers the application has written (item 5). -/
  written : List Nat
  deriving DecidableEq, Repr

/-- Nothing has happened yet. -/
def BootLog.empty : BootLog := ⟨false, [], []⟩

/-- The slots of a list, with one more if there is one. -/
def withSlot (l : List Nat) : Option Nat → List Nat
  | some j => j :: l
  | none => l

/-- The slot a write strobe writes at this moment (rules R178, R179). -/
def RunMoment.strobe (m : RunMoment) : Option Nat :=
  if m.falls && writeStrobe m.before then writeSlot m.before else none

/-- The slot a load edge reads at this moment (rules R200, R201). -/
def RunMoment.loadEdge (m : RunMoment) : Option Nat :=
  if m.falls && loads m.before then readSlot m.before else none

/-- The read register the application writes at this moment (rule R203). -/
def RunMoment.rregWrite (m : RunMoment) : Option Nat :=
  match m.event with
  | .rreg k _ => some k.toNat
  | .envClk _ | .envSda _ | .rst _ => none
  | .clkRise _ | .clkFall _ | .start | .dataFallL | .stop | .dataRiseL => none
  | .addrR _ _ | .addrW _ _ | .addrNm _ _ _ | .idx _ _ | .wdata _ _ => none
  | .rdataA _ | .rdataN _ | .idleFrame _ _ => none

/-- The log after a moment. A write strobe counts once the registers have been reset: before that the
byte it stores is itself a draw (rule R295; log entry 21). -/
def BootLog.note (l : BootLog) (m : RunMoment) : BootLog where
  reset := l.reset || asserted m.after
  strobed := if l.reset then withSlot l.strobed m.strobe else l.strobed
  written := withSlot l.written m.rregWrite

/-- The log after some moments. -/
def bootLog (ms : List RunMoment) (l : BootLog) : BootLog := ms.foldl BootLog.note l

/-- Rule R296 item 3 at a moment: where reset ends, the bus is idle. -/
def RunMoment.endsResetIdle (m : RunMoment) : Bit :=
  !(asserted m.before && !asserted m.after) || (m.after.clk && sda m.after)

/-- Rule R296 item 5 at a moment: a load edge of a register the claim expects to be read comes after
the application wrote it. The rule leaves open which loads are "that read"; that every load edge of
the register is one, in every protocol state and whether or not the byte is transmitted, is the
model's choice (log entry 21). -/
def loadCovered (c : BootClaim) (l : BootLog) (m : RunMoment) : Bit :=
  match m.loadEdge with
  | some k => !c.rregs.contains k || l.written.contains k
  | none => true

/-- Rule R296 items 3 and 5 along a run, from the first reset on. -/
def bootKept (c : BootClaim) : List RunMoment → BootLog → Bit
  | [], _ => true
  | m :: ms, l =>
    (!l.reset || ((c.midBus || m.endsResetIdle) && loadCovered c l m)) && bootKept c ms (l.note m)

/-- Rule R296, the boot premise `Booted`: the run `boot` comes before the events the claim speaks of,
`work`, from any power-up state `s` (R295). Every word is a host event (R91); an event with reset
asserted has come in `boot` (item 1); the configuration stays (item 2); reset ends on an idle bus or
the claim accepts it (item 3); under KEEP each write register of the claim has had its strobe (item
4); each read register it expects to be read is written before its load edge (item 5). -/
def Booted (c : BootClaim) (boot work : List Instr) (s : State) : Bit :=
  (boot ++ work).all (fun i => isHostEvent i && i.wellFormed s.cfg)
    && (bootLog (runMoments boot s) .empty).reset
    && (runMoments (boot ++ work) s).all (fun m => m.after.cfg == s.cfg)
    && (s.cfg.wregReset == .clear || c.wregs.all (bootLog (runMoments boot s) .empty).strobed.contains)
    && bootKept c (runMoments (boot ++ work) s) .empty

end Sys2Proof.Machine
end

