-- ==== Sys2Proof/Certificates/Slice0/Obligations.lean ====
section
/-! DEFINITION. The statements for the provers, from the spec's numbered rules. Every statement is
about every state, and so about every configuration a state can carry. -/

open Sys2Proof Sys2Proof.Machine

/-! ## Encoding (30_encoding.md) -/

/-- Rules R91, R93, R96, R97, R104: a well-formed instruction's word, read in the protocol state its
frame belongs to, decodes to that instruction. -/
def Obligations.DecodeInvertsEncode : Prop :=
  ∀ (c : Config) (st : ProtoState) (i : Instr), i.wellFormed c = true → i.decodedIn st = true →
    decode c st (encode i) = .ok i

/-- The other direction: a word that decodes has no other spelling, and what it spells is
well-formed. -/
def Obligations.EncodeInvertsDecode : Prop :=
  ∀ (c : Config) (st : ProtoState) (w : Word) (i : Instr), decode c st w = .ok i →
    encode i = w ∧ i.wellFormed c = true ∧ i.decodedIn st = true

/-- Words written out from rules R91, R93, R97 to R101 decode to what the rules name. -/
def Obligations.WordsOfTheSpecDecode : Prop :=
  decode Config.reference .idle [false, false, true] = .ok (.envClk true) ∧
  decode Config.reference .idle [true, true, false, true] = .ok .start ∧
  decode Config.reference .devAddr [true, false, true, false, true, false, true, true, false] =
    .ok (.addrR 0x55#7 false) ∧
  decode Config.reference .write [true, false, true, false, false, true, false, true, false] =
    .ok (.wdata 0xA5#8 false)

/-- Rule R94: a bus word whose old and new level agree spells no bus event, so the decoder answers no
instruction; and while the engine
pulls DATA low, the environment's release changes `env_sda` and makes no DATA edge. -/
def Obligations.UnchangedLevelIsNoBusEvent : Prop :=
  (∀ (c : Config) (st : ProtoState) (l o x : Bit), decode c st [l, o, o, x] = .error .noBusEvent) ∧
  (∀ s : State, asserted s = false → s.sdaRel = false →
    sda s = false ∧ exec (.envSda true) s = .next { s with envSda := true } ∧
      sda { s with envSda := true } = false)

/-- Rules R91 and R11, R12 (I15, I2, I3): a word for a read slot that is not there is refused by the
decoder and by the step. That every step refuses a configuration that is not admitted, and that a
map list longer than 256 entries is not, is the model's (log entry 15). -/
def Obligations.StepRefusesWhatTheSpecRefuses : Prop :=
  (∀ (s : State) (k v : Byte) (rest : List Word), s.cfg.wellFormed = true → s.cfg.nr ≤ k.toNat →
    s.input = encode (.rreg k v) :: rest → step s = .refused (.notAnEvent (.noReadSlot k.toNat))) ∧
  (∀ s : State, s.cfg.wellFormed = false → step s = .refused .badConfiguration)

/-! ## The step -/

/-- When the next word of the input decodes to `i` in the protocol state a frame would be clocked in,
the step takes the word off the input and runs `i`. The input list is the model's (log entry 4), and
so is the protocol state a frame is decoded in, the one after its opening edge (log entry 10). -/
def Obligations.StepRunsDecodedInstruction : Prop :=
  ∀ (s : State) (w : Word) (rest : List Word) (i : Instr),
    s.cfg.wellFormed = true → s.input = w :: rest → decode s.cfg (openFrame s).st w = .ok i →
    step s = exec i { s with input := rest }

/-- Rules R244 and R277: with no event to come the bus is idle and nothing changes. That the step
then answers the same state is the model's choice (log entry 4). -/
def Obligations.IdleBusKeepsEverything : Prop :=
  ∀ s : State, s.cfg.wellFormed = true → s.input = [] → step s = .next s

/-- Rule R45: no step and no instruction changes the configuration. -/
def Obligations.ConfigurationNeverChanges : Prop :=
  (∀ s t : State, step s = .next t → t.cfg = s.cfg) ∧
  (∀ (i : Instr) (s t : State), exec i s = .next t → t.cfg = s.cfg)

/-! ## Lines and detectors (40_bus_conditions.md) -/

/-- Rules R91, R123, R141: a host event that writes an input its present value changes nothing. -/
def Obligations.PresentValueChangesNothing : Prop :=
  ∀ s : State, asserted s = false →
    exec (.envClk s.clk) s = .next s ∧ exec (.envSda s.envSda) s = .next s ∧ exec (.rst s.rst) s = .next s ∧
    ∀ (k : Byte) (v : Byte), k.toNat < s.cfg.nr → s.rreg[k.toNat]? = some v → exec (.rreg k v) s = .next s

/-- Rule R133: START, as the bus event and as the host event that makes it. -/
def Obligations.StartSetsTheDetector : Prop :=
  (∀ (c : Config) (st : ProtoState), decode c st [true, true, false, true] = .ok .start) ∧
  ∀ s : State, asserted s = false → s.clk = true → sda s = true →
    ∃ t, exec .start s = .next t ∧ exec (.envSda false) s = .next t ∧
      t = { s with envSda := false, startDet := if s.startRst = false then true else s.startDet }

/-- Rule R134: DATA falls while CLK is low. -/
def Obligations.DataFallLowClearsTheDetector : Prop :=
  (∀ (c : Config) (st : ProtoState), decode c st [true, true, false, false] = .ok .dataFallL) ∧
  ∀ s : State, asserted s = false → s.clk = false → sda s = true →
    ∃ t, exec .dataFallL s = .next t ∧ exec (.envSda false) s = .next t ∧
      t = { s with envSda := false, startDet := if s.startRst = false then false else s.startDet }

/-- Rule R135: STOP; and while the engine pulls DATA low it cannot occur. -/
def Obligations.StopSetsTheDetector : Prop :=
  (∀ (c : Config) (st : ProtoState), decode c st [true, false, true, true] = .ok .stop) ∧
  (∀ s : State, asserted s = false → s.clk = true → s.envSda = false → s.sdaRel = true →
    ∃ t, exec .stop s = .next t ∧ exec (.envSda true) s = .next t ∧
      t = { s with envSda := true, stopDet := if s.stopRst = false then true else s.stopDet }) ∧
  (∀ s : State, asserted s = false → s.sdaRel = false →
    exec (.envSda true) s = .next { s with envSda := true } ∧ sda { s with envSda := true } = false)

/-- Rule R136: DATA rises while CLK is low. -/
def Obligations.DataRiseLowClearsTheDetector : Prop :=
  (∀ (c : Config) (st : ProtoState), decode c st [true, false, true, false] = .ok .dataRiseL) ∧
  ∀ s : State, asserted s = false → s.clk = false → s.envSda = false → s.sdaRel = true →
    ∃ t, exec .dataRiseL s = .next t ∧ exec (.envSda true) s = .next t ∧
      t = { s with envSda := true, stopDet := if s.stopRst = false then false else s.stopDet }

/-- Rules R137, R128, R131, R152: the rising edge, as the host event and as the bus event. The whole
next state is given, so nothing else changes. -/
def Obligations.RisingEdgeResult : Prop :=
  (∀ (c : Config) (st : ProtoState) (d : Bit), decode c st [false, false, true, d] = .ok (.clkRise d)) ∧
  ∀ s : State, asserted s = false → s.clk = false →
    ∃ t, exec (.envClk true) s = .next t ∧ exec (.clkRise (sda s)) s = .next t ∧
      t = { s with
        clk := true
        startRst := s.startDet
        stopRst := s.stopDet
        inSr := if s.cnt = 8#4 ∧ s.startDet = false then s.inSr
                else s.inSr <<< 1 ||| (if sda s = true then 1#8 else 0#8)
        mack := if s.cnt = 8#4 ∧ s.startDet = false then !(sda s) else s.mack
        startDet := if s.startDet = true then false else s.startDet
        stopDet := if s.stopDet = true then false else s.stopDet }

/-- Rules R140, R125, R126: a falling edge, as the host event and as the bus event, leaves the inputs,
the resetters, `mack` and the model's input alone; the detectors change only when the engine's own
drive change moves the wire, which is then a data-bit change and clears them. -/
def Obligations.FallingEdgeLeavesTheRest : Prop :=
  ∀ s : State, asserted s = false → s.clk = true →
    ∃ t, exec (.envClk false) s = .next t ∧ exec (.clkFall (sda s)) s = .next t ∧
      t.clk = false ∧ t.envSda = s.envSda ∧ t.rst = s.rst ∧ t.rreg = s.rreg ∧ t.cfg = s.cfg ∧
      t.startRst = s.startRst ∧ t.stopRst = s.stopRst ∧ t.mack = s.mack ∧ t.input = s.input ∧
      t.startDet = (if sda s = true ∧ sda t = false ∧ s.startRst = false then false else s.startDet) ∧
      t.stopDet = (if sda s = false ∧ sda t = true ∧ s.stopRst = false then false else s.stopDet)

/-- The model's choice (log entry 9): a bus event whose old levels are not the lines' present ones, or
whose DATA edge the engine holds back, cannot occur, and nothing changes. -/
def Obligations.MisfitBusEventChangesNothing : Prop :=
  ∀ s : State,
    (∀ d : Bit, (s.clk = true ∨ sda s ≠ d) → exec (.clkRise d) s = .next s) ∧
    (∀ d : Bit, (s.clk = false ∨ sda s ≠ d) → exec (.clkFall d) s = .next s) ∧
    ((sda s = false ∨ s.clk = false) → exec .start s = .next s) ∧
    ((sda s = false ∨ s.clk = true) → exec .dataFallL s = .next s) ∧
    ((sda s = true ∨ s.clk = false ∨ s.sdaRel = false) → exec .stop s = .next s) ∧
    ((sda s = true ∨ s.clk = true ∨ s.sdaRel = false) → exec .dataRiseL s = .next s)

/-- Rules R129, R138, R139: a START is pending through the next falling edge, is cleared at the rising
edge after it, and a START in the high phase that follows is lost; the next rising edge frees the
detector. -/
def Obligations.StartIsReportedOnce : Prop :=
  ∀ s : State, asserted s = false → s.clk = true → sda s = true → s.startRst = false →
    let s1 := runItems [.start, .envClk false] s
    let s2 := runItems [.envClk true] s1
    let s3 := runItems [.envSda true, .envSda false] s2
    let s4 := runItems [.envClk false, .envClk true] s3
    (runItems [.start] s).startDet = true ∧ s1.startDet = true ∧
    s2.startDet = false ∧ s2.startRst = true ∧ s3.startDet = false ∧ s4.startRst = false

/-- Rules R124, R307: the two orders of a simultaneous fall of CLK and DATA on an idle bus differ. -/
def Obligations.OrderOfLineChangesMatters : Prop :=
  ∀ s : State, asserted s = false → s.clk = true → sda s = true → s.startRst = false → s.startDet = false →
    (runItems [.envSda false, .envClk false] s).startDet = true ∧
    (runItems [.envSda false, .envClk false] s).st = .devAddr ∧
    (runItems [.envClk false, .envSda false] s).startDet = false

/-! ## Framing (41_framing.md) -/

/-- Rules R151, R154, R155: the markers, the address match and the direction flag. -/
def Obligations.MarkersAndAddressMatch : Prop :=
  ∀ s : State,
    (readerMark s = true ↔ s.cnt = 6#4 ∧ s.startDet = false) ∧
    (lsbMark s = true ↔ s.cnt = 7#4 ∧ s.startDet = false) ∧
    (ackMark s = true ↔ s.cnt = 8#4 ∧ s.startDet = false) ∧
    (addrMatch s = true ↔ s.inSr.toNat / 2 = s.cfg.devAddr.toNat) ∧
    (dirFlag s = true ↔ s.inSr.toNat % 2 = 1)

/-- Rule R150: the bit counter, at a falling edge, at a rising edge, at a DATA edge and under reset. -/
def Obligations.BitCounterCounts : Prop :=
  ∀ s : State, asserted s = false →
    (s.clk = true → ∃ t, exec (.envClk false) s = .next t ∧
      t.cnt = if s.cnt = 8#4 ∨ s.startDet = true then 0#4 else s.cnt + 1#4) ∧
    (s.clk = false → ∃ t, exec (.envClk true) s = .next t ∧ t.cnt = s.cnt) ∧
    (∀ v : Bit, ∃ t, exec (.envSda v) s = .next t ∧ t.cnt = s.cnt) ∧
    (∀ (v : Bit) (t : State), exec (.rst v) s = .next t → asserted t = true → t.cnt = 0#4)

/-- Rule R153: a pending STOP clears the input shift register at the falling edge. -/
def Obligations.InputShiftRegisterAtFallingEdge : Prop :=
  ∀ s : State, asserted s = false → s.clk = true →
    ∃ t, exec (.envClk false) s = .next t ∧ t.inSr = if s.stopDet = true then 0x00#8 else s.inSr

/-- Rule R156: the acknowledge is captured at the rising edge of an ack slot and kept at every other
edge. -/
def Obligations.MasterAckCapture : Prop :=
  ∀ s : State, asserted s = false →
    (s.clk = false → ∃ t, exec (.envClk true) s = .next t ∧
      t.mack = if s.cnt = 8#4 ∧ s.startDet = false then !(sda s) else s.mack) ∧
    (s.clk = true → ∃ t, exec (.envClk false) s = .next t ∧ t.mack = s.mack) ∧
    (∀ v : Bit, ∃ t, exec (.envSda v) s = .next t ∧ t.mack = s.mack)

/-! ## Protocol state, pointer, writes (42_protocol_fsm.md) -/

/-- Rules R170, R171: the protocol state at a falling edge: START, then STOP, then the table at the
ack marker; and reset forces IDLE. -/
def Obligations.ProtocolStateTable : Prop :=
  (∀ (s t : State) (v : Bit), exec (.rst v) s = .next t → asserted t = true → t.st = .idle) ∧
  ∀ s : State, asserted s = false → s.clk = true →
    ∃ t, exec (.envClk false) s = .next t ∧
      t.st =
        if s.startDet = true then .devAddr
        else if s.stopDet = true then .idle
        else if s.cnt = 8#4 then
          match s.st with
          | .idle => .idle
          | .devAddr =>
            if s.inSr.extractLsb' 1 7 = s.cfg.devAddr then
              if s.inSr.getLsbD 0 = true then .read else .idxPtr
            else .idle
          | .read => if s.mack = true then .read else .idle
          | .idxPtr => .write
          | .write => .write
        else s.st

/-- Rules R175, R176: the index pointer at a falling edge, under each value of `P_IDX_INC`; and reset
forces 0x00. -/
def Obligations.IndexPointerNext : Prop :=
  (∀ (s t : State) (v : Bit), exec (.rst v) s = .next t → asserted t = true → t.ptr = 0x00#8) ∧
  ∀ s : State, asserted s = false → s.clk = true →
    ∃ t, exec (.envClk false) s = .next t ∧
      t.ptr =
        if s.stopDet = true then 0x00#8
        else if s.cnt = 8#4 ∧ s.startDet = false then
          if s.st = .idxPtr then s.inSr
          else if
            (s.cfg.idxInc = .transfer ∧
              ((s.st = .devAddr ∧ s.inSr.extractLsb' 1 7 = s.cfg.devAddr ∧ s.inSr.getLsbD 0 = true) ∨
                s.st = .read ∨ s.st = .write)) ∨
            s.cfg.idxInc = .allButIdx
          then s.ptr + 1#8
          else s.ptr
        else s.ptr

/-- Rules R178, R179, R180, R181: at a falling edge with the write strobe the byte goes to the mapped
slot and to no other, and exactly that slot's `update` pulses; otherwise nothing is stored and every
`update` is 0. -/
def Obligations.WriteStrobeStores : Prop :=
  ∀ s : State, asserted s = false → s.clk = true → Memory.wf s = true →
    ∃ t, exec (.envClk false) s = .next t ∧ t.wreg.length = s.wreg.length ∧
      (∀ j, j < s.cfg.nw → t.wreg[j]? =
        if (s.cnt = 8#4 ∧ s.startDet = false) ∧ s.st = .write ∧ slotOf s.cfg.wmap s.ptr = some j then some s.inSr
        else s.wreg[j]?) ∧
      pulsesAt t.update s.cfg.nw
        (if (s.cnt = 8#4 ∧ s.startDet = false) ∧ s.st = .write then slotOf s.cfg.wmap s.ptr else none)

/-- Rule R182: a write register changes only by the strobe at a falling edge, or at reset under
CLEAR. -/
def Obligations.WriteRegistersChangeOnlyByStrobe : Prop :=
  ∀ (i : Instr) (s t : State) (j : Nat), isHostEvent i = true → exec i s = .next t → t.wreg[j]? ≠ s.wreg[j]? →
    (i = .envClk false ∧ s.clk = true ∧ s.cnt = 8#4 ∧ s.startDet = false ∧ s.st = .write ∧
      slotOf s.cfg.wmap s.ptr = some j ∧ t.wreg[j]? = some s.inSr) ∨
    (asserted t = true ∧ s.cfg.wregReset = .clear)

/-- Rule R66 with rules R26 and R179: the array write puts the byte in its slot and leaves every other
slot as it was. -/
def Obligations.RegisterFileReadAfterWrite : Prop :=
  ∀ (w : List Byte) (j : Nat) (v : Byte), j < w.length →
    (wwrite w j v)[j]? = some v ∧ (wwrite w j v).length = w.length ∧ ∀ i, i ≠ j → (wwrite w j v)[i]? = w[i]?

/-! ## Read path and output (43_read_and_output.md) -/

/-- Rules R200, R201, R202: the load at the lsb marker, the STOP clear, the shift, and the `capture`
pulses; and reset forces 0x00. -/
def Obligations.OutputShiftRegisterNext : Prop :=
  (∀ (s t : State) (v : Bit), exec (.rst v) s = .next t → asserted t = true → t.outSr = 0x00#8) ∧
  ∀ s : State, asserted s = false → s.clk = true →
    let open_ := s.cfg.captureGate = .always ∨ s.st = .read ∨
      (s.st = .devAddr ∧ s.inSr.extractLsb' 1 7 = s.cfg.devAddr ∧ s.inSr.getLsbD 0 = true)
    let slot := if s.cnt = 7#4 ∧ s.startDet = false ∧ open_ then slotOf s.cfg.rmap s.ptr else none
    ∃ t, exec (.envClk false) s = .next t ∧
      (∀ k, slot = some k → t.outSr = s.rreg.getD k 0x00#8) ∧
      (slot = none → t.outSr = if s.stopDet = true then 0x00#8 else s.outSr <<< 1) ∧
      pulsesAt t.capture s.cfg.nr slot

/-- Rules R204, R205, R206: the output control at a falling edge; it changes at no other event, but
reset forces it to 1. -/
def Obligations.OutputControlNext : Prop :=
  (∀ s : State, asserted s = false →
    (s.clk = false → ∃ t, exec (.envClk true) s = .next t ∧ t.sdaRel = s.sdaRel) ∧
    (∀ v : Bit, ∃ t, exec (.envSda v) s = .next t ∧ t.sdaRel = s.sdaRel) ∧
    (∀ (v : Bit) (t : State), exec (.rst v) s = .next t → t.sdaRel = (asserted t || s.sdaRel)) ∧
    (∀ (k v : Byte) (t : State), exec (.rreg k v) s = .next t → t.sdaRel = s.sdaRel)) ∧
  ∀ s : State, asserted s = false → s.clk = true →
    let own := s.st = .devAddr ∧ s.inSr.extractLsb' 1 7 = s.cfg.devAddr
    ∃ t, exec (.envClk false) s = .next t ∧
      t.sdaRel =
        if s.startDet = true then true
        else if s.cnt = 7#4 then
          if (own ∧ (s.inSr.getLsbD 0 = true ∨ s.cfg.addrAckWrite = true)) ∨ s.st = .idxPtr ∨ s.st = .write
          then false else true
        else if s.cnt = 8#4 then
          if (s.st = .read ∧ s.mack = true) ∨ (own ∧ s.inSr.getLsbD 0 = true) then s.outSr.getLsbD 7 else true
        else if s.st = .read then s.outSr.getLsbD 7
        else true

/-- Rule R203: RREG writes its read register and nothing else, during reset too; a word for a slot
that is not there is refused by the decoder. -/
def Obligations.ReadRegisterWrite : Prop :=
  (∀ (c : Config) (st : ProtoState) (k v : Byte), c.nr ≤ k.toNat →
    decode c st ([true, true] ++ bitsOfByte k ++ bitsOfByte v) = .error (.noReadSlot k.toNat)) ∧
  (∀ (s : State) (k v : Byte), heldInReset s = true → k.toNat < s.cfg.nr →
    exec (.rreg k v) s = .next { s with rreg := s.rreg.set k.toNat v }) ∧
  (∀ (s : State) (k v : Byte), s.cfg.nr ≤ k.toNat → exec (.rreg k v) s = .refused (.noReadSlot k.toNat))

/-- Rules R122, R204, R42: of all host events only a CLK falling edge moves the engine's drive, and
reset, which releases it; so the engine never moves DATA while CLK is high, but for reset. -/
def Obligations.OnlyFallingEdgesMoveTheDrive : Prop :=
  ∀ (i : Instr) (s t : State), isHostEvent i = true → exec i s = .next t → t.sdaRel ≠ s.sdaRel →
    (i = .envClk false ∧ s.clk = true ∧ t.clk = false) ∨ (asserted t = true ∧ t.sdaRel = true)

/-- Rules R28, R29, R303: a pulse lasts until the next falling edge: every other host event with reset
inactive keeps `update` and `capture`. -/
def Obligations.PulsesLastToTheNextFallingEdge : Prop :=
  ∀ (i : Instr) (s t : State), isHostEvent i = true → exec i s = .next t → asserted t = false →
    ¬(i = .envClk false ∧ s.clk = true) → t.update = s.update ∧ t.capture = s.capture

/-- Rule R210: a falling edge from IDLE releases DATA; so does the lsb edge of a mismatching address
byte. -/
def Obligations.IdleNeverDrives : Prop :=
  ∀ s : State, asserted s = false → s.clk = true →
    (s.st = .idle ∨ (s.st = .devAddr ∧ s.cnt = 7#4 ∧ s.inSr.extractLsb' 1 7 ≠ s.cfg.devAddr)) →
    ∃ t, exec (.envClk false) s = .next t ∧ t.sdaRel = true

/-- Rule R209: without a pending STOP a falling edge leaves DATA driven only in the slots (a) to (c),
and in (c) only for a 0 bit; with a STOP pending in READ outside the markers the engine still drives
the old bit while the state becomes IDLE, and with a STOP pending at an lsb edge that drives the
acknowledge it still drives it (the latent windows). -/
def Obligations.DriveSlots : Prop :=
  ∀ s : State, asserted s = false → s.clk = true → s.cnt ≤ 8#4 →
    ∃ t, exec (.envClk false) s = .next t ∧
      (s.stopDet = false → t.sdaRel = false → engineSlot t = true ∧ (t.st = .read → s.outSr.getLsbD 7 = false)) ∧
      (s.stopDet = true → s.startDet = false → s.st = .read → s.cnt < 7#4 →
        t.sdaRel = s.outSr.getLsbD 7 ∧ t.st = .idle) ∧
      (s.stopDet = true → lsbMark s = true → driveAck s = true → t.sdaRel = false ∧ t.st = .idle ∧ t.ptr = 0x00#8)

/-! ## Reset (70_reset_and_hazards.md) -/

/-- Rules R290, R291, R292, R46: the event that asserts reset gives every engine register its reset
value at once, whatever it held; the inputs stay, and DATA is what the environment leaves it. -/
def Obligations.ResetAssertionResult : Prop :=
  ∀ s : State, ∃ t, exec (.rst (activeLevel s.cfg)) s = .next t ∧
    t = { s with
      rst := activeLevel s.cfg
      st := .idle
      cnt := 0#4
      ptr := 0x00#8
      inSr := 0x00#8
      outSr := 0x00#8
      startDet := false
      startRst := false
      stopDet := false
      stopRst := false
      mack := false
      sdaRel := true
      wreg := match s.cfg.wregReset with
        | .keep => s.wreg
        | .clear => List.replicate s.cfg.nw 0x00#8
      update := List.replicate s.cfg.nw false
      capture := List.replicate s.cfg.nr false } ∧
    asserted t = true ∧ sda t = s.envSda

/-- Rule R293: while reset is asserted and the registers hold their reset values, every host event
changes its input and nothing else. -/
def Obligations.ResetHeldIgnoresEvents : Prop :=
  ∀ s : State, asserted s = true → heldInReset s = true →
    (∀ v, exec (.envClk v) s = .next { s with clk := v }) ∧
    (∀ v, exec (.envSda v) s = .next { s with envSda := v }) ∧
    exec (.rst s.rst) s = .next s ∧
    (∀ k v : Byte, k.toNat < s.cfg.nr → exec (.rreg k v) s = .next { s with rreg := s.rreg.set k.toNat v })

/-- Rule R294: the event that ends reset runs no handler; RST at an inactive level never does. -/
def Obligations.ResetDeassertionResult : Prop :=
  ∀ s : State, exec (.rst (!activeLevel s.cfg)) s = .next { s with rst := !activeLevel s.cfg }

/-- Rules R295, R296 (item 3) and R108: from every power-up state, IDLE and then RESET give every engine
register its reset value, with the bus idle and reset inactive. -/
def Obligations.BootReachesTheResetValues : Prop :=
  ∀ s : State, poweredUp s = true →
    let a := activeLevel s.cfg
    let t := runItems [.envClk true, .envSda true, .rst a, .rst (!a)] s
    t = { s with
      clk := true
      envSda := true
      rst := !a
      st := .idle
      cnt := 0#4
      ptr := 0x00#8
      inSr := 0x00#8
      outSr := 0x00#8
      startDet := false
      startRst := false
      stopDet := false
      stopRst := false
      mack := false
      sdaRel := true
      wreg := match s.cfg.wregReset with
        | .keep => s.wreg
        | .clear => List.replicate s.cfg.nw 0x00#8
      update := List.replicate s.cfg.nw false
      capture := List.replicate s.cfg.nr false } ∧
    engineInv t = true ∧
    ∀ w k, (s.cfg.wregReset = .clear ∨ w = []) →
      Booted ⟨false, w, k⟩ [.envClk true, .envSda true, .rst a, .rst (!a)] [] s = true

/-! ## Invariants -/

/-- Rules R49, R157, R270: every step keeps the invariant, from every state that meets it. -/
def Obligations.StepKeepsTheInvariant : Prop :=
  ∀ s t : State, engineInv s = true → step s = .next t → engineInv t = true

/-- The reset state meets the invariants the steps keep. -/
def Obligations.ResetMeetsTheInvariants : Prop :=
  engineInv State.reset = true ∧ outSrDrained State.reset = true

/-- Rule R211: every step keeps `out_sr` drained, and a drained `out_sr` is 0x00 before every lsb-marker
edge. -/
def Obligations.StepKeepsOutSrDrained : Prop :=
  (∀ s t : State, outSrDrained s = true → step s = .next t → outSrDrained t = true) ∧
  (∀ s : State, outSrDrained s = true → lsbMark s = true → s.outSr = 0x00#8)

/-- Rule R311: on a run that is Booted (R296) and whose master is well formed (R299; log entry 16)
from a moment of asserted reset on, whatever the bus was doing then, no DriveConflict occurs (R144),
and the engine pulls DATA low only in the slots of R209 (a) to (c). -/
def Obligations.WellFormedMasterSeesNoConflict : Prop :=
  ∀ (c : BootClaim) (boot : List Instr) (work : List MasterMove) (b : BusView) (s : State),
    Booted c boot (work.map MasterMove.event) s = true → asserted (runItems boot s) = true →
    wellFormedMaster work b (runItems boot s) = true →
    DriveConflict work (runItems boot s) = false ∧
      ∀ n, (runItems ((work.take n).map MasterMove.event) (runItems boot s)).sdaRel = false →
        engineSlot (runItems ((work.take n).map MasterMove.event) (runItems boot s)) = true

/-! ## Byte frames (44_transactions.md)

The statements per frame give the whole next state but for the environment's own line, whose level
after a frame no rule gives (log entry 7); `FrameNetEffect` says what the model leaves there. -/

/-- The 27 host events of a frame have one net effect, in every protocol state and every
configuration: the edge rules refine to rules R230 to R237. -/
def Obligations.FrameNetEffect : Prop :=
  ∀ (s : State) (v : Byte) (k : Bit), atFrameStart s = true →
    clockFrame (frameSlots v k) s = netFrame v k s ∧
    (clockSlots (bitsOfByte v) s).outSr = preload v s ∧
    (clockSlots (bitsOfByte v) s).sdaRel = !driveAck (atLsb v s)

/-- Rule R230: ADDR_R. -/
def Obligations.AddrReadFrame : Prop :=
  ∀ (s : State) (k : Bit), atFrameStart s = true → s.st = .devAddr → s.sdaRel = true →
    let mid := clockSlots (bitsOfAddr s.cfg.devAddr ++ [true]) s
    mid.outSr = readByte s s.ptr ∧ mid.sdaRel = false ∧ pulsesAt mid.capture s.cfg.nr (slotOf s.cfg.rmap s.ptr) ∧
    ∃ t, exec (.addrR s.cfg.devAddr k) s = .next t ∧
      t = { s with
        envSda := t.envSda
        st := .read
        cnt := 0#4
        ptr := pointerAfter s.cfg s.ptr 1
        inSr := BitVec.ofNat 8 (2 * s.cfg.devAddr.toNat + 1)
        outSr := readByte s s.ptr <<< 1
        startDet := false
        startRst := false
        stopDet := false
        stopRst := false
        mack := true
        sdaRel := (readByte s s.ptr).getLsbD 7
        update := List.replicate s.cfg.nw false
        capture := List.replicate s.cfg.nr false }

/-- Rule R231: ADDR_W. The ack slot is what `P_ADDR_ACK_WRITE` says, and `k` where the engine
releases it. -/
def Obligations.AddrWriteFrame : Prop :=
  ∀ (s : State) (k : Bit), atFrameStart s = true → s.st = .devAddr → s.sdaRel = true →
    let mid := clockSlots (bitsOfAddr s.cfg.devAddr ++ [false]) s
    let slot := if s.cfg.captureGate = .always then slotOf s.cfg.rmap s.ptr else none
    let d := if s.cfg.captureGate = .always then readByte s s.ptr else 0x00#8
    mid.outSr = d ∧ mid.sdaRel = !s.cfg.addrAckWrite ∧ pulsesAt mid.capture s.cfg.nr slot ∧
    ∃ t, exec (.addrW s.cfg.devAddr k) s = .next t ∧
      t = { s with
        envSda := t.envSda
        st := .idxPtr
        cnt := 0#4
        ptr := if s.cfg.idxInc = .allButIdx then s.ptr + 1#8 else s.ptr
        inSr := BitVec.ofNat 8 (2 * s.cfg.devAddr.toNat)
        outSr := d <<< 1
        startDet := false
        startRst := false
        stopDet := false
        stopRst := false
        mack := !k || s.cfg.addrAckWrite
        sdaRel := true
        update := List.replicate s.cfg.nw false
        capture := List.replicate s.cfg.nr false }

/-- Rule R232: ADDR_NM, either direction; the engine releases DATA throughout. -/
def Obligations.AddrMismatchFrame : Prop :=
  ∀ (s : State) (b : Addr7) (r k : Bit), atFrameStart s = true → s.st = .devAddr → s.sdaRel = true →
    b ≠ s.cfg.devAddr →
    let mid := clockSlots (bitsOfAddr b ++ [r]) s
    let slot := if s.cfg.captureGate = .always then slotOf s.cfg.rmap s.ptr else none
    let d := if s.cfg.captureGate = .always then readByte s s.ptr else 0x00#8
    (∀ n, (clockSlots ((bitsOfAddr b ++ [r]).take n) s).sdaRel = true) ∧
    mid.outSr = d ∧ mid.sdaRel = true ∧ pulsesAt mid.capture s.cfg.nr slot ∧
    ∃ t, exec (.addrNm b r k) s = .next t ∧
      t = { s with
        envSda := t.envSda
        st := .idle
        cnt := 0#4
        ptr := if s.cfg.idxInc = .allButIdx then s.ptr + 1#8 else s.ptr
        inSr := BitVec.ofNat 8 (2 * b.toNat + r.toNat)
        outSr := d <<< 1
        startDet := false
        startRst := false
        stopDet := false
        stopRst := false
        mack := !k
        sdaRel := true
        update := List.replicate s.cfg.nw false
        capture := List.replicate s.cfg.nr false }

/-- Rule R233: IDX. Every byte is accepted and acknowledged. -/
def Obligations.IndexFrame : Prop :=
  ∀ (s : State) (v : Byte) (k : Bit), atFrameStart s = true → s.st = .idxPtr → s.sdaRel = true →
    let mid := clockSlots (bitsOfByte v) s
    let slot := if s.cfg.captureGate = .always then slotOf s.cfg.rmap s.ptr else none
    let d := if s.cfg.captureGate = .always then readByte s s.ptr else 0x00#8
    mid.outSr = d ∧ mid.sdaRel = false ∧ pulsesAt mid.capture s.cfg.nr slot ∧
    ∃ t, exec (.idx v k) s = .next t ∧
      t = { s with
        envSda := t.envSda
        st := .write
        cnt := 0#4
        ptr := v
        inSr := v
        outSr := d <<< 1
        startDet := false
        startRst := false
        stopDet := false
        stopRst := false
        mack := true
        sdaRel := true
        update := List.replicate s.cfg.nw false
        capture := List.replicate s.cfg.nr false }

/-- Rule R234: WDATA. The byte is acknowledged whether or not a slot is mapped; the pulse ends at the
next falling edge. -/
def Obligations.WriteDataFrame : Prop :=
  ∀ (s : State) (v : Byte) (k : Bit), atFrameStart s = true → s.st = .write → s.sdaRel = true →
    let mid := clockSlots (bitsOfByte v) s
    let slot := if s.cfg.captureGate = .always then slotOf s.cfg.rmap s.ptr else none
    let d := if s.cfg.captureGate = .always then readByte s s.ptr else 0x00#8
    mid.outSr = d ∧ mid.sdaRel = false ∧ pulsesAt mid.capture s.cfg.nr slot ∧
    ∃ t, exec (.wdata v k) s = .next t ∧ pulsesAt t.update s.cfg.nw (slotOf s.cfg.wmap s.ptr) ∧
      t = { s with
        envSda := t.envSda
        cnt := 0#4
        ptr := pointerAfter s.cfg s.ptr 1
        inSr := v
        outSr := d <<< 1
        startDet := false
        startRst := false
        stopDet := false
        stopRst := false
        mack := true
        sdaRel := true
        wreg := match slotOf s.cfg.wmap s.ptr with
          | some j => s.wreg.set j v
          | none => s.wreg
        update := t.update
        capture := List.replicate s.cfg.nr false } ∧
      (runItems [.envClk true, .envClk false] t).update = List.replicate s.cfg.nw false

/-- Rules R235, R207, R212: RDATA_A. `D` is the byte being transmitted, its bit 7 on DATA; the master
receives what its own contribution lets through. -/
def Obligations.ReadDataAckFrame : Prop :=
  ∀ (s : State) (D r : Byte), atFrameStart s = true → s.st = .read → s.sdaRel = D.getLsbD 7 → s.outSr = D <<< 1 →
    let mid := clockSlots (bitsOfByte r) s
    (∀ n, n < 8 → (clockSlots ((bitsOfByte r).take n) s).sdaRel = D.getLsbD (7 - n)) ∧
    mid.outSr = readByte s s.ptr ∧ mid.sdaRel = true ∧ pulsesAt mid.capture s.cfg.nr (slotOf s.cfg.rmap s.ptr) ∧
    ∃ t, exec (.rdataA r) s = .next t ∧
      t = { s with
        envSda := t.envSda
        cnt := 0#4
        ptr := pointerAfter s.cfg s.ptr 1
        inSr := D &&& r
        outSr := readByte s s.ptr <<< 1
        startDet := false
        startRst := false
        stopDet := false
        stopRst := false
        mack := true
        sdaRel := (readByte s s.ptr).getLsbD 7
        update := List.replicate s.cfg.nw false
        capture := List.replicate s.cfg.nr false }

/-- Rule R236: RDATA_N, as RDATA_A to the lsb edge; then the engine goes to IDLE and releases DATA. -/
def Obligations.ReadDataNackFrame : Prop :=
  ∀ (s : State) (D r : Byte), atFrameStart s = true → s.st = .read → s.sdaRel = D.getLsbD 7 → s.outSr = D <<< 1 →
    let mid := clockSlots (bitsOfByte r) s
    (∀ n, n < 8 → (clockSlots ((bitsOfByte r).take n) s).sdaRel = D.getLsbD (7 - n)) ∧
    mid.outSr = readByte s s.ptr ∧ mid.sdaRel = true ∧ pulsesAt mid.capture s.cfg.nr (slotOf s.cfg.rmap s.ptr) ∧
    ∃ t, exec (.rdataN r) s = .next t ∧
      t = { s with
        envSda := t.envSda
        st := .idle
        cnt := 0#4
        ptr := pointerAfter s.cfg s.ptr 1
        inSr := D &&& r
        outSr := readByte s s.ptr <<< 1
        startDet := false
        startRst := false
        stopDet := false
        stopRst := false
        mack := false
        sdaRel := true
        update := List.replicate s.cfg.nw false
        capture := List.replicate s.cfg.nr false }

/-- Rule R237: IDLE_FRAME. The engine frames the byte and never drives DATA. -/
def Obligations.IdleFrameResult : Prop :=
  ∀ (s : State) (v : Byte) (k : Bit), atFrameStart s = true → s.st = .idle → s.sdaRel = true →
    let mid := clockSlots (bitsOfByte v) s
    let slot := if s.cfg.captureGate = .always then slotOf s.cfg.rmap s.ptr else none
    let d := if s.cfg.captureGate = .always then readByte s s.ptr else 0x00#8
    (∀ n, (clockSlots ((bitsOfByte v).take n) s).sdaRel = true) ∧
    mid.outSr = d ∧ mid.sdaRel = true ∧ pulsesAt mid.capture s.cfg.nr slot ∧
    ∃ t, exec (.idleFrame v k) s = .next t ∧
      t = { s with
        envSda := t.envSda
        cnt := 0#4
        ptr := if s.cfg.idxInc = .allButIdx then s.ptr + 1#8 else s.ptr
        inSr := v
        outSr := d <<< 1
        startDet := false
        startRst := false
        stopDet := false
        stopRst := false
        mack := !k
        sdaRel := true
        update := List.replicate s.cfg.nw false
        capture := List.replicate s.cfg.nr false }

/-! ## Transactions (44_transactions.md) -/

/-- Rule R238: a write transaction of any number of data bytes, to the last ack edge: START, the write
address, an index byte, the data bytes. -/
def Obligations.WriteTransaction : Prop :=
  ∀ (s : State) (k0 k1 k2 : Bit) (i : Byte) (vs : List Byte),
    asserted s = false → s.clk = true → sda s = true → s.startRst = false →
    let t := runItems (.start :: .addrW s.cfg.devAddr k0 :: .idx i k1 :: vs.map (fun v => .wdata v k2)) s
    t.st = .write ∧ t.ptr = pointerAfter s.cfg i vs.length ∧ t.wreg = storeBytes s.cfg i vs s.wreg ∧
    t.cnt = 0#4 ∧ t.clk = false ∧ t.sdaRel = true ∧ t.rreg = s.rreg

/-- Rule R239: a read transaction of `n + 1` bytes, the last not acknowledged: the master receives the
registers that successive pointer values name, from the pointer's value after the START edge on, and
0x00 where none is mapped. -/
def Obligations.ReadTransaction : Prop :=
  ∀ (s : State) (k : Bit) (n : Nat),
    asserted s = false → s.clk = true → sda s = true → s.startRst = false →
    let p := if s.stopDet = true then 0x00#8 else s.ptr
    let u := runItems [.start, .addrR s.cfg.devAddr k] s
    let reads := List.replicate n (.rdataA 0xFF#8) ++ [.rdataN 0xFF#8]
    let t := runItems reads u
    receivedBytes reads u = (List.range (n + 1)).map (fun m => readByte s (pointerAfter s.cfg p m)) ∧
    t.st = .idle ∧ t.ptr = pointerAfter s.cfg p (n + 2) ∧ t.sdaRel = true ∧ t.wreg = s.wreg ∧ t.rreg = s.rreg

/-- Rule R240: the index is set by a write, kept over a repeated START, and read from. -/
def Obligations.CombinedTransaction : Prop :=
  ∀ (s : State) (k0 k1 k2 : Bit) (i : Byte) (n : Nat),
    asserted s = false → s.clk = true → sda s = true → s.startRst = false →
    let u := runItems [.start, .addrW s.cfg.devAddr k0, .idx i k1, .envSda true, .envClk true, .start,
      .addrR s.cfg.devAddr k2] s
    let reads := List.replicate n (.rdataA 0xFF#8) ++ [.rdataN 0xFF#8]
    let t := runItems reads u
    receivedBytes reads u = (List.range (n + 1)).map (fun m => readByte s (pointerAfter s.cfg i m)) ∧
    t.st = .idle ∧ t.ptr = pointerAfter s.cfg i (n + 2) ∧ t.wreg = s.wreg

/-- Rules R243, R172: the falling edge that consumes a STOP with no START pending gives IDLE and pointer
0, and while no START is pending every host event keeps them, unless the pointer also counts idle
bytes (`ALL_BUT_IDX`). -/
def Obligations.RepeatedStopsStayIdle : Prop :=
  (∀ s : State, asserted s = false → s.clk = true → s.stopDet = true → s.startDet = false →
    ∃ t, exec (.envClk false) s = .next t ∧ t.st = .idle ∧ t.ptr = 0x00#8) ∧
  (∀ (i : Instr) (s t : State), s.st = .idle → s.ptr = 0x00#8 → s.startDet = false → s.cfg.idxInc ≠ .allButIdx →
    isHostEvent i = true → exec i s = .next t → t.st = .idle ∧ t.ptr = 0x00#8)

/-- Rule R242: a START in the middle of a frame abandons the byte: no store, no load, no pulse, no table
step; the pointer is kept unless a STOP is pending too. -/
def Obligations.StartAbandonsTheByte : Prop :=
  ∀ s : State, asserted s = false → s.clk = true → s.startDet = true →
    ∃ t, exec (.envClk false) s = .next t ∧ t.st = .devAddr ∧ t.cnt = 0#4 ∧ t.sdaRel = true ∧
      t.wreg = s.wreg ∧ t.update = List.replicate s.cfg.nw false ∧ t.capture = List.replicate s.cfg.nr false ∧
      t.ptr = (if s.stopDet = true then 0x00#8 else s.ptr) ∧
      t.inSr = (if s.stopDet = true then 0x00#8 else s.inSr) ∧
      t.outSr = (if s.stopDet = true then 0x00#8 else s.outSr <<< 1)

/-! ## Boot (70_reset_and_hazards.md) -/

/-- Rule R49: after the first reset the invariant holds along every Booted run, from every power-up
state (R295, R296). -/
def Obligations.InvariantHoldsOnceBooted : Prop :=
  ∀ (c : BootClaim) (boot work : List Instr) (s : State), poweredUp s = true → Booted c boot work s = true →
    engineInv (runItems (boot ++ work) s) = true

/-- Rules R295, R296: a Booted run forgets the power-up draw. Two machines with one configuration and
the same input lines, whatever else they powered up with, are in the same state after one Booted run
that reads no read register the application has not written, but for read registers it never wrote
and, under KEEP, write registers no strobe has reached; those the claim speaks of agree. -/
def Obligations.BootedRunForgetsThePowerUpDraw : Prop :=
  ∀ (c : BootClaim) (boot work : List Instr) (s s' : State),
    poweredUp s = true → poweredUp s' = true → s'.cfg = s.cfg → s'.clk = s.clk → s'.envSda = s.envSda → s'.rst = s.rst →
    s'.input = s.input → (∀ k, k < s.cfg.nr → k ∈ c.rregs) → Booted c boot work s = true →
    let t := runItems (boot ++ work) s
    let t' := runItems (boot ++ work) s'
    { t' with wreg := t.wreg, rreg := t.rreg } = t ∧ ∀ j, j ∈ c.wregs → t'.wreg[j]? = t.wreg[j]?
end

