-- ==== Sys2Proof/Laws/State.lean ====
section
/-! SUPPORT. One lemma per field per update operation: what the operation leaves in the field. -/

namespace Sys2Proof.Machine

@[simp] theorem fallingEdge_cfg (s : State) : (fallingEdge s).cfg = s.cfg := rfl
@[simp] theorem fallingEdge_clk (s : State) : (fallingEdge s).clk = s.clk := rfl
@[simp] theorem fallingEdge_envSda (s : State) : (fallingEdge s).envSda = s.envSda := rfl
@[simp] theorem fallingEdge_rst (s : State) : (fallingEdge s).rst = s.rst := rfl
@[simp] theorem fallingEdge_rreg (s : State) : (fallingEdge s).rreg = s.rreg := rfl
@[simp] theorem fallingEdge_st (s : State) : (fallingEdge s).st = nextSt s := rfl
@[simp] theorem fallingEdge_cnt (s : State) : (fallingEdge s).cnt = nextCnt s := rfl
@[simp] theorem fallingEdge_ptr (s : State) : (fallingEdge s).ptr = nextPtr s := rfl
@[simp] theorem fallingEdge_inSr (s : State) : (fallingEdge s).inSr = nextInFall s := rfl
@[simp] theorem fallingEdge_outSr (s : State) : (fallingEdge s).outSr = nextOut s := rfl
@[simp] theorem fallingEdge_startDet (s : State) : (fallingEdge s).startDet = s.startDet := rfl
@[simp] theorem fallingEdge_startRst (s : State) : (fallingEdge s).startRst = s.startRst := rfl
@[simp] theorem fallingEdge_stopDet (s : State) : (fallingEdge s).stopDet = s.stopDet := rfl
@[simp] theorem fallingEdge_stopRst (s : State) : (fallingEdge s).stopRst = s.stopRst := rfl
@[simp] theorem fallingEdge_mack (s : State) : (fallingEdge s).mack = s.mack := rfl
@[simp] theorem fallingEdge_sdaRel (s : State) : (fallingEdge s).sdaRel = nextRel s := rfl
@[simp] theorem fallingEdge_wreg (s : State) : (fallingEdge s).wreg = nextWreg s := rfl
@[simp] theorem fallingEdge_update (s : State) : (fallingEdge s).update = nextUpdate s := rfl
@[simp] theorem fallingEdge_capture (s : State) : (fallingEdge s).capture = nextCapture s := rfl
@[simp] theorem fallingEdge_input (s : State) : (fallingEdge s).input = s.input := rfl

@[simp] theorem risingEdge_cfg (d : Bit) (s : State) : (risingEdge d s).cfg = s.cfg := rfl
@[simp] theorem risingEdge_clk (d : Bit) (s : State) : (risingEdge d s).clk = s.clk := rfl
@[simp] theorem risingEdge_envSda (d : Bit) (s : State) : (risingEdge d s).envSda = s.envSda := rfl
@[simp] theorem risingEdge_rst (d : Bit) (s : State) : (risingEdge d s).rst = s.rst := rfl
@[simp] theorem risingEdge_rreg (d : Bit) (s : State) : (risingEdge d s).rreg = s.rreg := rfl
@[simp] theorem risingEdge_st (d : Bit) (s : State) : (risingEdge d s).st = s.st := rfl
@[simp] theorem risingEdge_cnt (d : Bit) (s : State) : (risingEdge d s).cnt = s.cnt := rfl
@[simp] theorem risingEdge_ptr (d : Bit) (s : State) : (risingEdge d s).ptr = s.ptr := rfl
@[simp] theorem risingEdge_inSr (d : Bit) (s : State) : (risingEdge d s).inSr = if ackMark s then s.inSr else shl s.inSr d := rfl
@[simp] theorem risingEdge_outSr (d : Bit) (s : State) : (risingEdge d s).outSr = s.outSr := rfl
@[simp] theorem risingEdge_startDet (d : Bit) (s : State) : (risingEdge d s).startDet = false := rfl
@[simp] theorem risingEdge_startRst (d : Bit) (s : State) : (risingEdge d s).startRst = s.startDet := rfl
@[simp] theorem risingEdge_stopDet (d : Bit) (s : State) : (risingEdge d s).stopDet = false := rfl
@[simp] theorem risingEdge_stopRst (d : Bit) (s : State) : (risingEdge d s).stopRst = s.stopDet := rfl
@[simp] theorem risingEdge_mack (d : Bit) (s : State) : (risingEdge d s).mack = if ackMark s then !d else s.mack := rfl
@[simp] theorem risingEdge_sdaRel (d : Bit) (s : State) : (risingEdge d s).sdaRel = s.sdaRel := rfl
@[simp] theorem risingEdge_wreg (d : Bit) (s : State) : (risingEdge d s).wreg = s.wreg := rfl
@[simp] theorem risingEdge_update (d : Bit) (s : State) : (risingEdge d s).update = s.update := rfl
@[simp] theorem risingEdge_capture (d : Bit) (s : State) : (risingEdge d s).capture = s.capture := rfl
@[simp] theorem risingEdge_input (d : Bit) (s : State) : (risingEdge d s).input = s.input := rfl

@[simp] theorem dataFall_cfg (s : State) : (dataFall s).cfg = s.cfg := rfl
@[simp] theorem dataFall_clk (s : State) : (dataFall s).clk = s.clk := rfl
@[simp] theorem dataFall_envSda (s : State) : (dataFall s).envSda = s.envSda := rfl
@[simp] theorem dataFall_rst (s : State) : (dataFall s).rst = s.rst := rfl
@[simp] theorem dataFall_rreg (s : State) : (dataFall s).rreg = s.rreg := rfl
@[simp] theorem dataFall_st (s : State) : (dataFall s).st = s.st := rfl
@[simp] theorem dataFall_cnt (s : State) : (dataFall s).cnt = s.cnt := rfl
@[simp] theorem dataFall_ptr (s : State) : (dataFall s).ptr = s.ptr := rfl
@[simp] theorem dataFall_inSr (s : State) : (dataFall s).inSr = s.inSr := rfl
@[simp] theorem dataFall_outSr (s : State) : (dataFall s).outSr = s.outSr := rfl
@[simp] theorem dataFall_startDet (s : State) : (dataFall s).startDet = if s.startRst then s.startDet else s.clk := rfl
@[simp] theorem dataFall_startRst (s : State) : (dataFall s).startRst = s.startRst := rfl
@[simp] theorem dataFall_stopDet (s : State) : (dataFall s).stopDet = s.stopDet := rfl
@[simp] theorem dataFall_stopRst (s : State) : (dataFall s).stopRst = s.stopRst := rfl
@[simp] theorem dataFall_mack (s : State) : (dataFall s).mack = s.mack := rfl
@[simp] theorem dataFall_sdaRel (s : State) : (dataFall s).sdaRel = s.sdaRel := rfl
@[simp] theorem dataFall_wreg (s : State) : (dataFall s).wreg = s.wreg := rfl
@[simp] theorem dataFall_update (s : State) : (dataFall s).update = s.update := rfl
@[simp] theorem dataFall_capture (s : State) : (dataFall s).capture = s.capture := rfl
@[simp] theorem dataFall_input (s : State) : (dataFall s).input = s.input := rfl

@[simp] theorem dataRise_cfg (s : State) : (dataRise s).cfg = s.cfg := rfl
@[simp] theorem dataRise_clk (s : State) : (dataRise s).clk = s.clk := rfl
@[simp] theorem dataRise_envSda (s : State) : (dataRise s).envSda = s.envSda := rfl
@[simp] theorem dataRise_rst (s : State) : (dataRise s).rst = s.rst := rfl
@[simp] theorem dataRise_rreg (s : State) : (dataRise s).rreg = s.rreg := rfl
@[simp] theorem dataRise_st (s : State) : (dataRise s).st = s.st := rfl
@[simp] theorem dataRise_cnt (s : State) : (dataRise s).cnt = s.cnt := rfl
@[simp] theorem dataRise_ptr (s : State) : (dataRise s).ptr = s.ptr := rfl
@[simp] theorem dataRise_inSr (s : State) : (dataRise s).inSr = s.inSr := rfl
@[simp] theorem dataRise_outSr (s : State) : (dataRise s).outSr = s.outSr := rfl
@[simp] theorem dataRise_startDet (s : State) : (dataRise s).startDet = s.startDet := rfl
@[simp] theorem dataRise_startRst (s : State) : (dataRise s).startRst = s.startRst := rfl
@[simp] theorem dataRise_stopDet (s : State) : (dataRise s).stopDet = if s.stopRst then s.stopDet else s.clk := rfl
@[simp] theorem dataRise_stopRst (s : State) : (dataRise s).stopRst = s.stopRst := rfl
@[simp] theorem dataRise_mack (s : State) : (dataRise s).mack = s.mack := rfl
@[simp] theorem dataRise_sdaRel (s : State) : (dataRise s).sdaRel = s.sdaRel := rfl
@[simp] theorem dataRise_wreg (s : State) : (dataRise s).wreg = s.wreg := rfl
@[simp] theorem dataRise_update (s : State) : (dataRise s).update = s.update := rfl
@[simp] theorem dataRise_capture (s : State) : (dataRise s).capture = s.capture := rfl
@[simp] theorem dataRise_input (s : State) : (dataRise s).input = s.input := rfl

@[simp] theorem resetRegisters_cfg (s : State) : (resetRegisters s).cfg = s.cfg := rfl
@[simp] theorem resetRegisters_clk (s : State) : (resetRegisters s).clk = s.clk := rfl
@[simp] theorem resetRegisters_envSda (s : State) : (resetRegisters s).envSda = s.envSda := rfl
@[simp] theorem resetRegisters_rst (s : State) : (resetRegisters s).rst = s.rst := rfl
@[simp] theorem resetRegisters_rreg (s : State) : (resetRegisters s).rreg = s.rreg := rfl
@[simp] theorem resetRegisters_st (s : State) : (resetRegisters s).st = .idle := rfl
@[simp] theorem resetRegisters_cnt (s : State) : (resetRegisters s).cnt = 0#4 := rfl
@[simp] theorem resetRegisters_ptr (s : State) : (resetRegisters s).ptr = 0x00#8 := rfl
@[simp] theorem resetRegisters_inSr (s : State) : (resetRegisters s).inSr = 0x00#8 := rfl
@[simp] theorem resetRegisters_outSr (s : State) : (resetRegisters s).outSr = 0x00#8 := rfl
@[simp] theorem resetRegisters_startDet (s : State) : (resetRegisters s).startDet = false := rfl
@[simp] theorem resetRegisters_startRst (s : State) : (resetRegisters s).startRst = false := rfl
@[simp] theorem resetRegisters_stopDet (s : State) : (resetRegisters s).stopDet = false := rfl
@[simp] theorem resetRegisters_stopRst (s : State) : (resetRegisters s).stopRst = false := rfl
@[simp] theorem resetRegisters_mack (s : State) : (resetRegisters s).mack = false := rfl
@[simp] theorem resetRegisters_sdaRel (s : State) : (resetRegisters s).sdaRel = true := rfl
@[simp] theorem resetRegisters_wreg (s : State) : (resetRegisters s).wreg = wregUnderReset s := rfl
@[simp] theorem resetRegisters_update (s : State) : (resetRegisters s).update = List.replicate s.cfg.nw false := rfl
@[simp] theorem resetRegisters_capture (s : State) : (resetRegisters s).capture = List.replicate s.cfg.nr false := rfl
@[simp] theorem resetRegisters_input (s : State) : (resetRegisters s).input = s.input := rfl

@[simp] theorem setRreg_cfg (s : State) (k : Nat) (v : Byte) : (setRreg s k v).cfg = s.cfg := rfl
@[simp] theorem setRreg_clk (s : State) (k : Nat) (v : Byte) : (setRreg s k v).clk = s.clk := rfl
@[simp] theorem setRreg_envSda (s : State) (k : Nat) (v : Byte) : (setRreg s k v).envSda = s.envSda := rfl
@[simp] theorem setRreg_rst (s : State) (k : Nat) (v : Byte) : (setRreg s k v).rst = s.rst := rfl
@[simp] theorem setRreg_rreg (s : State) (k : Nat) (v : Byte) : (setRreg s k v).rreg = s.rreg.set k v := rfl
@[simp] theorem setRreg_st (s : State) (k : Nat) (v : Byte) : (setRreg s k v).st = s.st := rfl
@[simp] theorem setRreg_cnt (s : State) (k : Nat) (v : Byte) : (setRreg s k v).cnt = s.cnt := rfl
@[simp] theorem setRreg_ptr (s : State) (k : Nat) (v : Byte) : (setRreg s k v).ptr = s.ptr := rfl
@[simp] theorem setRreg_inSr (s : State) (k : Nat) (v : Byte) : (setRreg s k v).inSr = s.inSr := rfl
@[simp] theorem setRreg_outSr (s : State) (k : Nat) (v : Byte) : (setRreg s k v).outSr = s.outSr := rfl
@[simp] theorem setRreg_startDet (s : State) (k : Nat) (v : Byte) : (setRreg s k v).startDet = s.startDet := rfl
@[simp] theorem setRreg_startRst (s : State) (k : Nat) (v : Byte) : (setRreg s k v).startRst = s.startRst := rfl
@[simp] theorem setRreg_stopDet (s : State) (k : Nat) (v : Byte) : (setRreg s k v).stopDet = s.stopDet := rfl
@[simp] theorem setRreg_stopRst (s : State) (k : Nat) (v : Byte) : (setRreg s k v).stopRst = s.stopRst := rfl
@[simp] theorem setRreg_mack (s : State) (k : Nat) (v : Byte) : (setRreg s k v).mack = s.mack := rfl
@[simp] theorem setRreg_sdaRel (s : State) (k : Nat) (v : Byte) : (setRreg s k v).sdaRel = s.sdaRel := rfl
@[simp] theorem setRreg_wreg (s : State) (k : Nat) (v : Byte) : (setRreg s k v).wreg = s.wreg := rfl
@[simp] theorem setRreg_update (s : State) (k : Nat) (v : Byte) : (setRreg s k v).update = s.update := rfl
@[simp] theorem setRreg_capture (s : State) (k : Nat) (v : Byte) : (setRreg s k v).capture = s.capture := rfl
@[simp] theorem setRreg_input (s : State) (k : Nat) (v : Byte) : (setRreg s k v).input = s.input := rfl

@[simp] theorem pushWord_cfg (s : State) (w : Word) : (pushWord s w).cfg = s.cfg := rfl
@[simp] theorem pushWord_clk (s : State) (w : Word) : (pushWord s w).clk = s.clk := rfl
@[simp] theorem pushWord_envSda (s : State) (w : Word) : (pushWord s w).envSda = s.envSda := rfl
@[simp] theorem pushWord_rst (s : State) (w : Word) : (pushWord s w).rst = s.rst := rfl
@[simp] theorem pushWord_rreg (s : State) (w : Word) : (pushWord s w).rreg = s.rreg := rfl
@[simp] theorem pushWord_st (s : State) (w : Word) : (pushWord s w).st = s.st := rfl
@[simp] theorem pushWord_cnt (s : State) (w : Word) : (pushWord s w).cnt = s.cnt := rfl
@[simp] theorem pushWord_ptr (s : State) (w : Word) : (pushWord s w).ptr = s.ptr := rfl
@[simp] theorem pushWord_inSr (s : State) (w : Word) : (pushWord s w).inSr = s.inSr := rfl
@[simp] theorem pushWord_outSr (s : State) (w : Word) : (pushWord s w).outSr = s.outSr := rfl
@[simp] theorem pushWord_startDet (s : State) (w : Word) : (pushWord s w).startDet = s.startDet := rfl
@[simp] theorem pushWord_startRst (s : State) (w : Word) : (pushWord s w).startRst = s.startRst := rfl
@[simp] theorem pushWord_stopDet (s : State) (w : Word) : (pushWord s w).stopDet = s.stopDet := rfl
@[simp] theorem pushWord_stopRst (s : State) (w : Word) : (pushWord s w).stopRst = s.stopRst := rfl
@[simp] theorem pushWord_mack (s : State) (w : Word) : (pushWord s w).mack = s.mack := rfl
@[simp] theorem pushWord_sdaRel (s : State) (w : Word) : (pushWord s w).sdaRel = s.sdaRel := rfl
@[simp] theorem pushWord_wreg (s : State) (w : Word) : (pushWord s w).wreg = s.wreg := rfl
@[simp] theorem pushWord_update (s : State) (w : Word) : (pushWord s w).update = s.update := rfl
@[simp] theorem pushWord_capture (s : State) (w : Word) : (pushWord s w).capture = s.capture := rfl
@[simp] theorem pushWord_input (s : State) (w : Word) : (pushWord s w).input = w :: s.input := rfl

end Sys2Proof.Machine
end

