-- ==== Sys2Proof/Laws/Events.lean ====
section
/-! SUPPORT. What one host event does, said once per case (rule R123), and the induction every
invariant of the machine needs: what each host event keeps, every instruction and every step
keeps. -/

namespace Sys2Proof.Machine

/-! ### The flags and next-state functions read neither `clk` nor the environment's line -/

@[simp] theorem asserted_fallingEdge (s : State) : asserted (fallingEdge s) = asserted s := rfl
@[simp] theorem asserted_risingEdge (d : Bit) (s : State) : asserted (risingEdge d s) = asserted s := rfl
@[simp] theorem asserted_dataFall (s : State) : asserted (dataFall s) = asserted s := rfl
@[simp] theorem asserted_dataRise (s : State) : asserted (dataRise s) = asserted s := rfl
@[simp] theorem asserted_resetRegisters (s : State) : asserted (resetRegisters s) = asserted s := rfl

/-- A reset state is reset again to itself (rule R293). -/
theorem resetRegisters_idem (s : State) : resetRegisters (resetRegisters s) = resetRegisters s := by
  cases h : s.cfg.wregReset <;> simp [resetRegisters, wregUnderReset, h]

/-! ### `ProcessEvent`, case by case -/

/-- Reset overrides every handler (rules R292, R293). -/
theorem react_asserted {s0 s : State} (h : asserted s = true) : react s0 s = resetRegisters s := by
  simp [react, h]

/-- With reset inactive the CLK handler runs first and the DATA handler after it. -/
theorem react_running {s0 s : State} (h : asserted s = false) :
    react s0 s = dataHandler (sda s0) (clkHandler s0.clk s) := by
  simp [react, h]

theorem clkHandler_same (s : State) : clkHandler s.clk s = s := by
  cases h : s.clk <;> simp [clkHandler, h]

theorem dataHandler_same (s : State) : dataHandler (sda s) s = s := by
  cases h : sda s <;> simp [dataHandler, h]

/-- The DATA handlers write the two detectors and nothing else (rules R127, R130). -/
theorem dataHandler_cases (d : Bit) (s : State) :
    dataHandler d s = s ∨ dataHandler d s = dataFall s ∨ dataHandler d s = dataRise s := by
  unfold dataHandler
  split
  · exact .inr (.inl rfl)
  · split
    · exact .inr (.inr rfl)
    · exact .inl rfl

/-- ENV_CLK to the level already held does nothing (rule R141). -/
theorem driveClk_same {s : State} (h : asserted s = false) : driveClk s.clk s = s := by
  have : ({ s with clk := s.clk } : State) = s := rfl
  rw [driveClk, this, react_running h, clkHandler_same, dataHandler_same]

/-- The rising edge (rules R137, R141): DATA does not change, so no DATA handler runs. -/
theorem driveClk_rise {s : State} (h : asserted s = false) (hc : s.clk = false) :
    driveClk true s = risingEdge (sda s) { s with clk := true } := by
  have ha : asserted { s with clk := true } = false := h
  rw [driveClk, react_running ha]
  have h1 : clkHandler s.clk { s with clk := true } = risingEdge (sda s) { s with clk := true } := by
    simp [clkHandler, hc, sda]
  rw [h1]
  exact dataHandler_same (risingEdge (sda s) { s with clk := true })

/-- The falling edge (rules R140, R141), then the DATA handler for the engine's own drive change
(rule R125). -/
theorem driveClk_fall {s : State} (h : asserted s = false) (hc : s.clk = true) :
    driveClk false s = dataHandler (sda s) (fallingEdge { s with clk := false }) := by
  have ha : asserted { s with clk := false } = false := h
  rw [driveClk, react_running ha]
  simp [clkHandler, hc]

/-- ENV_SDA runs a DATA handler and no CLK handler (rule R142). -/
theorem driveSda_running {s : State} (v : Bit) (h : asserted s = false) :
    driveSda v s = dataHandler (sda s) { s with envSda := v } := by
  have ha : asserted { s with envSda := v } = false := h
  rw [driveSda, react_running ha]
  exact congrArg _ (clkHandler_same { s with envSda := v })

/-- The event that ends reset runs no handler (rule R294); nor does RST at an inactive level. -/
theorem driveRst_running {s : State} (v : Bit) (h : asserted { s with rst := v } = false) :
    driveRst v s = { s with rst := v } := by
  rw [driveRst, react_running h]
  have h1 : clkHandler s.clk { s with rst := v } = { s with rst := v } := clkHandler_same { s with rst := v }
  rw [h1]
  exact dataHandler_same { s with rst := v }

/-- RREG writes the read register and runs no handler (rule R203). -/
theorem applyRreg_running {s : State} (k : Nat) (v : Byte) (h : asserted s = false) :
    applyRreg k v s = setRreg s k v := by
  have ha : asserted (setRreg s k v) = false := h
  rw [applyRreg, react_running ha]
  have h1 : clkHandler s.clk (setRreg s k v) = setRreg s k v := clkHandler_same (setRreg s k v)
  rw [h1]
  exact dataHandler_same (setRreg s k v)

/-! ### What no host event writes -/

theorem react_cfg (s0 s : State) : (react s0 s).cfg = s.cfg := by
  unfold react dataHandler clkHandler
  repeat' split
  all_goals rfl

theorem react_input (s0 s : State) : (react s0 s).input = s.input := by
  unfold react dataHandler clkHandler
  repeat' split
  all_goals rfl

theorem react_inputs (s0 s : State) :
    (react s0 s).clk = s.clk ∧ (react s0 s).envSda = s.envSda ∧ (react s0 s).rst = s.rst ∧ (react s0 s).rreg = s.rreg := by
  unfold react dataHandler clkHandler
  repeat' split
  all_goals exact ⟨rfl, rfl, rfl, rfl⟩

/-! ### Chains of host events -/

/-- One host event takes the first state to the second (rule R91). -/
inductive EventStep : State → State → Prop where
  | clk (v : Bit) (s : State) : EventStep s (driveClk v s)
  | sda (v : Bit) (s : State) : EventStep s (driveSda v s)
  | rst (v : Bit) (s : State) : EventStep s (driveRst v s)
  | rreg (k : Nat) (v : Byte) (s : State) (h : k < s.cfg.nr) : EventStep s (applyRreg k v s)

/-- Some host events, one after the other, take the first state to the second. -/
inductive EventChain : State → State → Prop where
  | refl (s : State) : EventChain s s
  | tail {s t u : State} (h : EventChain s t) (e : EventStep t u) : EventChain s u

theorem EventChain.keeps {P : State → Prop} (hstep : ∀ s t, EventStep s t → P s → P t)
    {s t : State} (h : EventChain s t) (hs : P s) : P t := by
  induction h with
  | refl => exact hs
  | tail _ e ih => exact hstep _ _ e ih

theorem EventChain.one {s t : State} (e : EventStep s t) : EventChain s t := .tail (.refl s) e

theorem EventChain.clockSlot {s t : State} (b : Bit) (h : EventChain s t) : EventChain s (clockSlot b t) :=
  .tail (.tail (.tail h (.sda _ _)) (.clk _ _)) (.clk _ _)

theorem EventChain.clockSlots {s t : State} (bits : List Bit) (h : EventChain s t) :
    EventChain s (clockSlots bits t) := by
  induction bits generalizing t with
  | nil => exact h
  | cons b bs ih => exact ih (h.clockSlot b)

/-- A byte frame is a chain of host events (rules R95, R96). -/
theorem clockFrame_chain (bits : List Bit) (s : State) : EventChain s (clockFrame bits s) :=
  .clockSlots bits (.one (.clk false s))

/-- Whatever an instruction does, it does by host events (rules R92, R96). -/
theorem exec_chain {i : Instr} {s t : State} (h : exec i s = .next t) : EventChain s t := by
  have fit : ∀ {c : Bit} {u : State}, EventStep s u → EventChain s (if c = true then u else s) := by
    intro c u e; split
    · exact .one e
    · exact .refl s
  cases i with
  | envClk v => injection h with h; exact h ▸ .one (.clk v s)
  | envSda v => injection h with h; exact h ▸ .one (.sda v s)
  | rst v => injection h with h; exact h ▸ .one (.rst v s)
  | rreg k v =>
    simp only [exec, execRreg] at h
    split at h
    · injection h with h; exact h ▸ .one (.rreg _ v s ‹_›)
    · cases h
  | clkRise d => injection h with h; exact h ▸ fit (.clk true s)
  | clkFall d => injection h with h; exact h ▸ fit (.clk false s)
  | start => injection h with h; exact h ▸ fit (.sda false s)
  | dataFallL => injection h with h; exact h ▸ fit (.sda false s)
  | stop => injection h with h; exact h ▸ fit (.sda true s)
  | dataRiseL => injection h with h; exact h ▸ fit (.sda true s)
  | addrR a k => injection h with h; exact h ▸ clockFrame_chain _ s
  | addrW a k => injection h with h; exact h ▸ clockFrame_chain _ s
  | addrNm b r k => injection h with h; exact h ▸ clockFrame_chain _ s
  | idx p k => injection h with h; exact h ▸ clockFrame_chain _ s
  | wdata d k => injection h with h; exact h ▸ clockFrame_chain _ s
  | rdataA r => injection h with h; exact h ▸ clockFrame_chain _ s
  | rdataN r => injection h with h; exact h ▸ clockFrame_chain _ s
  | idleFrame x k => injection h with h; exact h ▸ clockFrame_chain _ s

/-- The invariant rule of `exec`. -/
theorem exec_keeps {P : State → Prop} (hstep : ∀ s t, EventStep s t → P s → P t)
    {i : Instr} {s t : State} (h : exec i s = .next t) (hs : P s) : P t :=
  (exec_chain h).keeps hstep hs

/-- What a step can do: leave an idle bus as it is, or run the next word's instruction. -/
theorem step_cases {s t : State} (h : step s = .next t) :
    s.cfg.wellFormed = true ∧
      ((s.input = [] ∧ t = s) ∨
        ∃ w rest i, s.input = w :: rest ∧ fetchDecode s w = .ok i ∧ exec i { s with input := rest } = .next t) := by
  unfold step at h
  split at h
  · refine ⟨‹_›, ?_⟩
    split at h
    · injection h with h; exact .inl ⟨‹_›, h.symm⟩
    · split at h
      · exact .inr ⟨_, _, _, ‹_›, ‹_›, h⟩
      · cases h
  · cases h

/-- The invariant rule of `step`: a property that does not read the input list and that every host
event keeps. -/
theorem step_keeps {P : State → Prop} (hin : ∀ s l, P s → P { s with input := l })
    (hstep : ∀ s t, EventStep s t → P s → P t) {s t : State} (h : step s = .next t) (hs : P s) : P t := by
  obtain ⟨-, ⟨-, rfl⟩ | ⟨w, rest, i, -, -, he⟩⟩ := step_cases h
  · exact hs
  · exact exec_keeps hstep he (hin s rest hs)

end Sys2Proof.Machine
end

