-- ==== Sys2Proof/Laws/Memory.lean ====
section
/-! SUPPORT. The register file: read after write, and every operation keeps its canonical form. -/

namespace Sys2Proof.Machine

/-- `WWrite` then a read of the same slot gives the byte written (rule R66). -/
theorem wwrite_same {w : List Byte} {j : Nat} (v : Byte) (h : j < w.length) : (wwrite w j v)[j]? = some v := by
  simp [wwrite, h]

/-- `WWrite` leaves every other slot alone (rule R66). -/
theorem wwrite_other {w : List Byte} {j i : Nat} (v : Byte) (h : j ≠ i) : (wwrite w j v)[i]? = w[i]? := by
  simp [wwrite, h]

@[simp] theorem wwrite_length (w : List Byte) (j : Nat) (v : Byte) : (wwrite w j v).length = w.length := by
  simp [wwrite]

@[simp] theorem pulseVector_length (n : Nat) (c : Bit) (slot : Option Nat) : (pulseVector n c slot).length = n := by
  simp [pulseVector]

@[simp] theorem nextWreg_length (s : State) : (nextWreg s).length = s.wreg.length := by
  unfold nextWreg
  repeat' split
  all_goals simp

/-- The canonical form, as four equations. -/
theorem memory_wf_iff (s : State) : Memory.wf s = true ↔
    s.wreg.length = s.cfg.nw ∧ s.rreg.length = s.cfg.nr ∧ s.update.length = s.cfg.nw ∧ s.capture.length = s.cfg.nr := by
  simp [Memory.wf, and_assoc]

theorem memory_wf_resetRegisters {s : State} (h : Memory.wf s = true) : Memory.wf (resetRegisters s) = true := by
  rw [memory_wf_iff] at h ⊢
  obtain ⟨h1, h2, -, -⟩ := h
  refine ⟨?_, h2, by simp, by simp⟩
  cases hk : s.cfg.wregReset <;> simp [wregUnderReset, hk, h1]

theorem memory_wf_fallingEdge {s : State} (h : Memory.wf s = true) : Memory.wf (fallingEdge s) = true := by
  rw [memory_wf_iff] at h ⊢
  obtain ⟨h1, h2, -, -⟩ := h
  simp [h1, h2, nextUpdate, nextCapture]

/-- Processing a host event keeps the canonical form. -/
theorem memory_wf_react {s0 s : State} (h : Memory.wf s = true) : Memory.wf (react s0 s) = true := by
  by_cases ha : asserted s = true
  · rw [react_asserted ha]; exact memory_wf_resetRegisters h
  · rw [react_running (by simpa using ha)]
    have hc : Memory.wf (clkHandler s0.clk s) = true := by
      unfold clkHandler
      repeat' split
      · exact h
      · exact memory_wf_fallingEdge h
      · exact h
    obtain hd | hd | hd := dataHandler_cases (sda s0) (clkHandler s0.clk s) <;> rw [hd] <;> exact hc

theorem memory_wf_setRreg {s : State} (k : Nat) (v : Byte) (h : Memory.wf s = true) :
    Memory.wf (setRreg s k v) = true := by
  rw [memory_wf_iff] at h ⊢
  simpa using h

/-- Every host event keeps the canonical form of the register file. -/
theorem memory_wf_event {s t : State} (e : EventStep s t) (h : Memory.wf s = true) : Memory.wf t = true := by
  cases e with
  | clk v => exact memory_wf_react (s0 := s) (s := { s with clk := v }) h
  | sda v => exact memory_wf_react (s0 := s) (s := { s with envSda := v }) h
  | rst v => exact memory_wf_react (s0 := s) (s := { s with rst := v }) h
  | rreg k v _ _ => exact memory_wf_react (memory_wf_setRreg k v h)

/-- Every instruction keeps the canonical form of the register file. -/
theorem memory_wf_exec {i : Instr} {s t : State} (h : exec i s = .next t) (hs : Memory.wf s = true) :
    Memory.wf t = true :=
  exec_keeps (P := fun u => Memory.wf u = true) (fun _ _ e => memory_wf_event e) h hs

theorem memory_wf_reset : Memory.wf State.reset = true := by decide

end Sys2Proof.Machine
end

