-- ==== Sys2Proof/Laws/Edges.lean ====
section
/-! SUPPORT. The flags as equations, and what a falling edge leaves in each register, said once. -/

namespace Sys2Proof.Machine

theorem shl_eq (v : Byte) (d : Bit) : shl v d = v <<< 1 ||| (if d = true then 1#8 else 0#8) := by
  revert v d; decide

theorem shl_false (v : Byte) : shl v false = v <<< 1 := by
  revert v; decide

theorem lsbMark_iff (s : State) : lsbMark s = true ↔ s.cnt = 7#4 ∧ s.startDet = false := by
  simp [lsbMark]

theorem ackMark_iff (s : State) : ackMark s = true ↔ s.cnt = 8#4 ∧ s.startDet = false := by
  simp [ackMark]

theorem readAddressed_iff (s : State) : readAddressed s = true ↔
    s.st = .devAddr ∧ s.inSr.extractLsb' 1 7 = s.cfg.devAddr ∧ s.inSr.getLsbD 0 = true := by
  simp [readAddressed, addrMatch, dirFlag, and_assoc]

theorem loadGate_iff (s : State) : loadGate s = true ↔
    s.cfg.captureGate = .always ∨ readAddressed s = true ∨ s.st = .read := by
  simp [loadGate, or_assoc]

theorem loads_iff (s : State) : loads s = true ↔
    lsbMark s = true ∧ (readSlot s).isSome = true ∧ loadGate s = true := by
  simp [loads, and_assoc]

theorem writeStrobe_iff (s : State) : writeStrobe s = true ↔ ackMark s = true ∧ s.st = .write := by
  simp [writeStrobe]

/-- No edge is both an lsb and an ack marker (rule R151). -/
theorem ackMark_not_lsbMark {s : State} (h : ackMark s = true) : lsbMark s = false := by
  have := (ackMark_iff s).1 h
  simp [lsbMark, this.1]

/-- A pulse vector is 1 exactly at its slot. -/
theorem pulseVector_at (n : Nat) (c : Bit) (slot : Option Nat) {j : Nat} (h : j < n) :
    (pulseVector n c slot)[j]? = some (c && decide (slot = some j)) := by
  cases c
  · simp [pulseVector, h]
  · simp only [pulseVector, List.getElem?_map, List.getElem?_range h, Option.map_some, Bool.true_and]
    exact congrArg some (Bool.beq_eq_decide_eq slot (some j))

/-- Without the condition no bit is 1. -/
theorem pulseVector_false (n : Nat) (slot : Option Nat) : pulseVector n false slot = List.replicate n false := by
  simp [pulseVector, List.map_const']

/-- The registers after a falling edge (rule R140): each from the state before the edge. The
detectors are those of the DATA handler (rule R125). -/
structure AfterFall (s t : State) : Prop where
  cnt : t.cnt = nextCnt s
  st : t.st = nextSt s
  ptr : t.ptr = nextPtr s
  wreg : t.wreg = nextWreg s
  update : t.update = nextUpdate s
  outSr : t.outSr = nextOut s
  capture : t.capture = nextCapture s
  inSr : t.inSr = nextInFall s
  sdaRel : t.sdaRel = nextRel s
  cfg : t.cfg = s.cfg
  clk : t.clk = false
  envSda : t.envSda = s.envSda
  rst : t.rst = s.rst
  rreg : t.rreg = s.rreg
  startRst : t.startRst = s.startRst
  stopRst : t.stopRst = s.stopRst
  mack : t.mack = s.mack
  input : t.input = s.input
  startDet : t.startDet = if sda s && !sda t && !s.startRst then false else s.startDet
  stopDet : t.stopDet = if !sda s && sda t && !s.stopRst then false else s.stopDet

/-- What a falling edge does. -/
theorem driveClk_fall_spec {s : State} (h : asserted s = false) (hc : s.clk = true) :
    AfterFall s (driveClk false s) := by
  rw [driveClk_fall h hc]
  have hw : ∀ u : State, sda (dataHandler (sda s) u) = sda u := by
    intro u
    obtain hd | hd | hd := dataHandler_cases (sda s) u <;> rw [hd] <;> rfl
  have h1 : ∀ u : State, (dataHandler (sda s) u).startDet =
      if sda s && !sda (dataHandler (sda s) u) && !u.startRst then u.clk else u.startDet := by
    intro u
    rw [hw]
    cases h1 : sda s <;> cases h2 : sda u <;> cases h3 : u.startRst <;> simp [dataHandler, h2, h3]
  have h2 : ∀ u : State, (dataHandler (sda s) u).stopDet =
      if !sda s && sda (dataHandler (sda s) u) && !u.stopRst then u.clk else u.stopDet := by
    intro u
    rw [hw]
    cases h1 : sda s <;> cases h2 : sda u <;> cases h3 : u.stopRst <;> simp [dataHandler, h2, h3]
  constructor
  case startDet => exact h1 _
  case stopDet => exact h2 _
  all_goals
    obtain hd | hd | hd := dataHandler_cases (sda s) (fallingEdge { s with clk := false }) <;> rw [hd] <;> rfl

/-- What ENV_SDA leaves alone when no reset is asserted: everything but the line and the
detectors (rules R133 to R136, R142). -/
theorem driveSda_spec {s : State} (v : Bit) (h : asserted s = false) :
    ∃ a b, driveSda v s = { s with envSda := v, startDet := a, stopDet := b } := by
  rw [driveSda_running v h]
  obtain hd | hd | hd := dataHandler_cases (sda s) { s with envSda := v } <;> rw [hd]
  · exact ⟨s.startDet, s.stopDet, rfl⟩
  · exact ⟨_, s.stopDet, rfl⟩
  · exact ⟨s.startDet, _, rfl⟩

/-- Reset stays inactive over a host event on a line (rules R141, R142). -/
theorem asserted_driveClk (v : Bit) (s : State) : asserted (driveClk v s) = asserted s := by
  have h1 := react_cfg s { s with clk := v }
  have h2 := (react_inputs s { s with clk := v }).2.2.1
  unfold asserted driveClk
  rw [h1, h2]

theorem asserted_driveSda (v : Bit) (s : State) : asserted (driveSda v s) = asserted s := by
  have h1 := react_cfg s { s with envSda := v }
  have h2 := (react_inputs s { s with envSda := v }).2.2.1
  unfold asserted driveSda
  rw [h1, h2]

end Sys2Proof.Machine
end

