-- ==== Sys2Proof/Laws/Encoding.lean ====
section
/-! SUPPORT. Bits and numbers: the helpers of the decoder and the encoder undo each other. -/

namespace Sys2Proof

@[simp] theorem byteOfBits_bitsOfByte (v : Byte) : byteOfBits (bitsOfByte v) = v := by
  revert v; decide

@[simp] theorem addrOfBits_bitsOfAddr (a : Addr7) : addrOfBits (bitsOfAddr a) = a := by
  revert a; decide

theorem bitsOfByte_byteOfBits (b7 b6 b5 b4 b3 b2 b1 b0 : Bit) :
    bitsOfByte (byteOfBits [b7, b6, b5, b4, b3, b2, b1, b0]) = [b7, b6, b5, b4, b3, b2, b1, b0] := by
  revert b7 b6 b5 b4 b3 b2 b1 b0; decide

theorem bitsOfAddr_addrOfBits (b6 b5 b4 b3 b2 b1 b0 : Bit) :
    bitsOfAddr (addrOfBits [b6, b5, b4, b3, b2, b1, b0]) = [b6, b5, b4, b3, b2, b1, b0] := by
  revert b6 b5 b4 b3 b2 b1 b0; decide

theorem bitsOfByte_length (v : Byte) : (bitsOfByte v).length = 8 := rfl

theorem bitsOfAddr_length (a : Addr7) : (bitsOfAddr a).length = 7 := rfl

/-- Every nine-bit word spells a frame (rules R96, R104). -/
theorem decode_byte_frame (c : Config) (st : ProtoState) (v : Byte) (k : Bit) :
    decode c st (bitsOfByte v ++ [k]) = .ok (decodeFrame c st (bitsOfByte v) k) := rfl

/-- The same for an address and its direction bit (rule R97). -/
theorem decode_addr_frame (c : Config) (st : ProtoState) (a : Addr7) (dir k : Bit) :
    decode c st (bitsOfAddr a ++ [dir, k]) = .ok (decodeFrame c st (bitsOfAddr a ++ [dir]) k) := rfl

/-- An 18-bit word that begins with `11` spells RREG with its two bytes (rule R91). -/
theorem decode_rreg (c : Config) (st : ProtoState) (k v : Byte) :
    decode c st ([true, true] ++ bitsOfByte k ++ bitsOfByte v) =
      decodeRreg c (byteOfBits (bitsOfByte k)) (byteOfBits (bitsOfByte v)) := rfl

end Sys2Proof
end

