-- ==== Sys2Proof/Laws/Frames.lean ====
section
/-! SUPPORT. One bit slot of a frame as one falling edge after one rising edge: everything
`clockSlot` can do, said once, for the statements about byte frames. -/

namespace Sys2Proof.Machine

/-- With CLK low and no detector set, a DATA edge leaves no trace (rules R134, R136). -/
theorem dataHandler_quiet {s : State} (d : Bit) (hc : s.clk = false) (h1 : s.startDet = false)
    (h2 : s.stopDet = false) : dataHandler d s = s := by
  obtain hd | hd | hd := dataHandler_cases d s
  · exact hd
  · rw [hd]
    have : (if s.startRst then s.startDet else s.clk) = s.startDet := by cases h : s.startRst <;> simp [h1, hc]
    show ({ s with startDet := if s.startRst then s.startDet else s.clk } : State) = s
    rw [this]
  · rw [hd]
    have : (if s.stopRst then s.stopDet else s.clk) = s.stopDet := by cases h : s.stopRst <;> simp [h2, hc]
    show ({ s with stopDet := if s.stopRst then s.stopDet else s.clk } : State) = s
    rw [this]

/-- A slot starting at CLK low puts `b` on the wire where the engine releases it, and is then the
rising edge followed by the falling edge, with CLK low again (rule R95). -/
theorem clockSlot_spec {s : State} (b : Bit) (h : asserted s = false) (hc : s.clk = false) :
    clockSlot b s = fallingEdge (risingEdge (b && s.sdaRel) (driveSda (slotLevel b s) s)) := by
  obtain ⟨x, y, hu⟩ := driveSda_spec (slotLevel b s) h
  have hw : sda { s with envSda := slotLevel b s, startDet := x, stopDet := y } = (b && s.sdaRel) := by
    cases b <;> cases hr : s.sdaRel <;> simp [sda, slotLevel, hr]
  unfold clockSlot
  rw [hu]
  have hua : asserted { s with envSda := slotLevel b s, startDet := x, stopDet := y } = false := h
  rw [driveClk_rise hua hc, hw]
  have hma : asserted (risingEdge (b && s.sdaRel)
      { s with envSda := slotLevel b s, startDet := x, stopDet := y, clk := true }) = false := h
  rw [driveClk_fall hma rfl]
  rw [dataHandler_quiet _ rfl rfl rfl]
  have : ({ s with envSda := slotLevel b s, startDet := x, stopDet := y, clk := false } : State) =
      { s with envSda := slotLevel b s, startDet := x, stopDet := y } := by
    rw [← hc]
  exact congrArg (fun u => fallingEdge (risingEdge (b && s.sdaRel) u)) this

/-- With CLK low already, a frame's opening edge is no event (rule R141). -/
theorem openFrame_low {s : State} (h : asserted s = false) (hc : s.clk = false) : openFrame s = s := by
  have := driveClk_same h
  rwa [hc] at this

/-- After a slot that starts at CLK low no condition is pending, CLK is low and reset is inactive. -/
theorem clockSlot_after {s : State} (b : Bit) (h : asserted s = false) (hc : s.clk = false) :
    (clockSlot b s).startDet = false ∧ (clockSlot b s).stopDet = false ∧ (clockSlot b s).clk = false ∧
      asserted (clockSlot b s) = false := by
  rw [clockSlot_spec b h hc]
  obtain ⟨x, y, hu⟩ := driveSda_spec (slotLevel b s) h
  rw [hu]
  exact ⟨rfl, rfl, hc, h⟩

/-- From the second slot of a frame on no condition is pending: the slot's next state, whole. -/
theorem clockSlot_quiet {s : State} (b : Bit) (h : asserted s = false) (hc : s.clk = false)
    (h1 : s.startDet = false) (h2 : s.stopDet = false) :
    clockSlot b s = fallingEdge { s with
      envSda := slotLevel b s
      startRst := false
      stopRst := false
      inSr := if ackMark s then s.inSr else shl s.inSr (b && s.sdaRel)
      mack := if ackMark s then !(b && s.sdaRel) else s.mack } := by
  rw [clockSlot_spec b h hc, driveSda_running _ h]
  rw [dataHandler_quiet (s := { s with envSda := slotLevel b s }) _ hc h1 h2]
  show fallingEdge { s with
      envSda := slotLevel b s
      startRst := s.startDet
      stopRst := s.stopDet
      inSr := if ackMark s then s.inSr else shl s.inSr (b && s.sdaRel)
      mack := if ackMark s then !(b && s.sdaRel) else s.mack
      startDet := false
      stopDet := false } = _
  rw [h1, h2]

end Sys2Proof.Machine
end

