-- ==== Sys2Proof/Laws/PerInstr.lean ====
section
/-! SUPPORT. Per-instruction laws about the words. -/

namespace Sys2Proof.Laws.Spelling

/-- The width of an instruction's word is one of its alphabet's (rules R91, R92, R96), and in every
configuration whose fields it fits and every protocol state the word spells some instruction. -/
def Statement (i : Instr) : Prop :=
  (encode i).length ∈ [3, 4, 9, 18] ∧
    ∀ (c : Config) (st : ProtoState), i.wellFormed c = true → ∃ j, decode c st (encode i) = .ok j

theorem envClk (v : Bit) : Statement (.envClk v) := ⟨by simp [encode], fun _ _ _ => ⟨_, rfl⟩⟩
theorem envSda (v : Bit) : Statement (.envSda v) := ⟨by simp [encode], fun _ _ _ => ⟨_, rfl⟩⟩
theorem rst (v : Bit) : Statement (.rst v) := ⟨by simp [encode], fun _ _ _ => ⟨_, rfl⟩⟩
theorem rreg (k v : Byte) : Statement (.rreg k v) := by
  refine ⟨by simp [encode, bitsOfByte_length], fun c st h => ⟨.rreg k v, (decode_rreg c st k v).trans ?_⟩⟩
  have hk : k.toNat < c.nr := of_decide_eq_true h
  simp [decodeRreg, hk]
theorem clkRise (d : Bit) : Statement (.clkRise d) := ⟨by simp [encode], fun _ _ _ => ⟨_, rfl⟩⟩
theorem clkFall (d : Bit) : Statement (.clkFall d) := ⟨by simp [encode], fun _ _ _ => ⟨_, rfl⟩⟩
theorem start : Statement .start := ⟨by simp [encode], fun _ _ _ => ⟨_, rfl⟩⟩
theorem dataFallL : Statement .dataFallL := ⟨by simp [encode], fun _ _ _ => ⟨_, rfl⟩⟩
theorem stop : Statement .stop := ⟨by simp [encode], fun _ _ _ => ⟨_, rfl⟩⟩
theorem dataRiseL : Statement .dataRiseL := ⟨by simp [encode], fun _ _ _ => ⟨_, rfl⟩⟩
theorem addrR (a : Addr7) (k : Bit) : Statement (.addrR a k) :=
  ⟨by simp [encode, bitsOfAddr_length], fun _ _ _ => ⟨_, decode_addr_frame _ _ _ _ _⟩⟩
theorem addrW (a : Addr7) (k : Bit) : Statement (.addrW a k) :=
  ⟨by simp [encode, bitsOfAddr_length], fun _ _ _ => ⟨_, decode_addr_frame _ _ _ _ _⟩⟩
theorem addrNm (b : Addr7) (r k : Bit) : Statement (.addrNm b r k) :=
  ⟨by simp [encode, bitsOfAddr_length], fun _ _ _ => ⟨_, decode_addr_frame _ _ _ _ _⟩⟩
theorem idx (p : Byte) (k : Bit) : Statement (.idx p k) :=
  ⟨by simp [encode, bitsOfByte_length], fun _ _ _ => ⟨_, decode_byte_frame _ _ _ _⟩⟩
theorem wdata (d : Byte) (k : Bit) : Statement (.wdata d k) :=
  ⟨by simp [encode, bitsOfByte_length], fun _ _ _ => ⟨_, decode_byte_frame _ _ _ _⟩⟩
theorem rdataA (r : Byte) : Statement (.rdataA r) :=
  ⟨by simp [encode, bitsOfByte_length], fun _ _ _ => ⟨_, decode_byte_frame _ _ _ _⟩⟩
theorem rdataN (r : Byte) : Statement (.rdataN r) :=
  ⟨by simp [encode, bitsOfByte_length], fun _ _ _ => ⟨_, decode_byte_frame _ _ _ _⟩⟩
theorem idleFrame (x : Byte) (k : Bit) : Statement (.idleFrame x k) :=
  ⟨by simp [encode, bitsOfByte_length], fun _ _ _ => ⟨_, decode_byte_frame _ _ _ _⟩⟩

end Sys2Proof.Laws.Spelling
end

