-- ==== Sys2Proof/Laws/Runs.lean ====
section
/-! SUPPORT. Runs and the predicates over them (rules R144, R296, R297, R299): one equation per
definition and constructor, and what every host event keeps, every run keeps. -/

namespace Sys2Proof.Machine

/-! ### Runs -/

@[simp] theorem runItems_nil (s : State) : runItems [] s = s := rfl
@[simp] theorem runItems_cons (i : Instr) (is : List Instr) (s : State) :
    runItems (i :: is) s = runItems is (applyInstr i s) := rfl

theorem runItems_append (is js : List Instr) (s : State) : runItems (is ++ js) s = runItems js (runItems is s) := by
  simp [runItems]

@[simp] theorem runMoments_nil (s : State) : runMoments [] s = [] := rfl
@[simp] theorem runMoments_cons (i : Instr) (is : List Instr) (s : State) :
    runMoments (i :: is) s = ⟨s, i, applyInstr i s⟩ :: runMoments is (applyInstr i s) := rfl

theorem runMoments_append (is js : List Instr) (s : State) :
    runMoments (is ++ js) s = runMoments is s ++ runMoments js (runItems is s) := by
  induction is generalizing s with
  | nil => rfl
  | cons i is ih => simp [ih]

/-- An instruction is a chain of host events, or leaves the state as it is. -/
theorem applyInstr_chain (i : Instr) (s : State) : EventChain s (applyInstr i s) := by
  unfold applyInstr
  split
  · exact exec_chain ‹_›
  · exact .refl s
  · exact .refl s

/-- The invariant rule of runs. -/
theorem runItems_keeps {P : State → Prop} (hstep : ∀ s t, EventStep s t → P s → P t) (is : List Instr) {s : State}
    (hs : P s) : P (runItems is s) := by
  induction is generalizing s with
  | nil => exact hs
  | cons i is ih => exact ih ((applyInstr_chain i s).keeps hstep hs)

/-- No run changes the configuration (rule R296 item 2). -/
theorem runItems_cfg (is : List Instr) (s : State) : (runItems is s).cfg = s.cfg :=
  runItems_keeps (P := fun t => t.cfg = s.cfg)
    (fun _ _ e h => (by cases e <;> exact react_cfg _ _ : _ = _).trans h) is rfl

/-- A host event that leaves reset asserted leaves every register at its reset value (rules R292,
R293). -/
theorem event_asserted_held {s t : State} (e : EventStep s t) (h : asserted t = true) : heldInReset t = true := by
  have key : ∀ s0 u : State, asserted (react s0 u) = true → heldInReset (react s0 u) = true := by
    intro s0 u hu
    have ha : asserted u = true := by
      have h1 := react_cfg s0 u
      have h2 := (react_inputs s0 u).2.2.1
      unfold asserted at hu ⊢
      rwa [h1, h2] at hu
    simp [heldInReset, react_asserted ha, resetRegisters_idem]
  cases e <;> exact key _ _ h

/-! ### The bus view -/

/-- An event that moves neither wire leaves the view alone. -/
theorem busView_next_same {s t : State} (b : BusView) (hc : t.clk = s.clk) (hd : sda t = sda s) : b.next s t = b := by
  cases h1 : s.clk <;> cases h2 : sda s <;> simp [BusView.next, hc, hd, h1, h2]

/-- A CLK fall is a fall for the view, whatever DATA does (rule R125). -/
theorem busView_next_fall {s t : State} (b : BusView) (hs : s.clk = true) (ht : t.clk = false) :
    b.next s t = b.clkFell := by
  simp [BusView.next, hs, ht]

theorem busView_next_rise {s t : State} (b : BusView) (hs : s.clk = false) (ht : t.clk = true) :
    b.next s t = b.clkRose (sda t) := by
  simp [BusView.next, hs, ht]

/-! ### DriveConflict and WellFormedMaster -/

@[simp] theorem DriveConflict_nil (s : State) : DriveConflict [] s = false := rfl
@[simp] theorem DriveConflict_cons (m : MasterMove) (ms : List MasterMove) (s : State) :
    DriveConflict (m :: ms) s = (conflictAt m s || DriveConflict ms (applyInstr m.event s)) := rfl

@[simp] theorem wellFormedMaster_nil (b : BusView) (s : State) : wellFormedMaster [] b s = true := rfl
@[simp] theorem wellFormedMaster_cons (m : MasterMove) (ms : List MasterMove) (b : BusView) (s : State) :
    wellFormedMaster (m :: ms) b s =
      (masterMay b m s && wellFormedMaster ms (b.next s (applyInstr m.event s)) (applyInstr m.event s)) := rfl

/-- A conflict is a CLK rising edge with the engine low, everybody else released, and a master that
needs DATA high (rule R144). -/
theorem conflictAt_iff (m : MasterMove) (s : State) : conflictAt m s = true ↔
    s.clk = false ∧ (applyInstr m.event s).clk = true ∧ m.intent.needsHigh = true ∧ s.envSda = true ∧
      s.sdaRel = false := by
  simp [conflictAt, RunMoment.rises, and_assoc]

/-- What a well-formed master's CLK rise says: in an engine's slot DATA is released and the master
receives; in the ack slot of a read byte it drives its acknowledge. -/
theorem mayRaiseClk_iff (b : BusView) (i : MasterIntent) (s : State) : mayRaiseClk b i s = true ↔
    (engineSlot s = true → s.envSda = true ∧ i = .receive) ∧
      (b.reading = true → b.first = false → b.pos = 8 → i = .transmit s.envSda) := by
  cases h1 : engineSlot s <;> cases h2 : b.reading <;> cases h3 : b.first <;> by_cases h4 : b.pos = 8 <;>
    simp [mayRaiseClk, h1, h2, h3, h4]

/-! ### Booted -/

@[simp] theorem bootLog_nil (l : BootLog) : bootLog [] l = l := rfl
@[simp] theorem bootLog_cons (m : RunMoment) (ms : List RunMoment) (l : BootLog) :
    bootLog (m :: ms) l = bootLog ms (l.note m) := rfl

theorem bootLog_append (ms ns : List RunMoment) (l : BootLog) : bootLog (ms ++ ns) l = bootLog ns (bootLog ms l) := by
  simp [bootLog]

@[simp] theorem note_reset (l : BootLog) (m : RunMoment) : (l.note m).reset = (l.reset || asserted m.after) := rfl
@[simp] theorem note_strobed (l : BootLog) (m : RunMoment) :
    (l.note m).strobed = if l.reset then withSlot l.strobed m.strobe else l.strobed := rfl
@[simp] theorem note_written (l : BootLog) (m : RunMoment) : (l.note m).written = withSlot l.written m.rregWrite := rfl

@[simp] theorem bootKept_nil (c : BootClaim) (l : BootLog) : bootKept c [] l = true := rfl
@[simp] theorem bootKept_cons (c : BootClaim) (m : RunMoment) (ms : List RunMoment) (l : BootLog) :
    bootKept c (m :: ms) l =
      ((!l.reset || ((c.midBus || m.endsResetIdle) && loadCovered c l m)) && bootKept c ms (l.note m)) := rfl

/-- Once reset, a log stays reset. -/
theorem bootLog_reset {l : BootLog} (ms : List RunMoment) (h : l.reset = true) : (bootLog ms l).reset = true := by
  induction ms generalizing l with
  | nil => exact h
  | cons m ms ih => exact ih (by simp [h])

/-- The five items of rule R296, as five facts. -/
theorem booted_iff (c : BootClaim) (boot work : List Instr) (s : State) : Booted c boot work s = true ↔
    (∀ i, i ∈ boot ++ work → isHostEvent i = true ∧ i.wellFormed s.cfg = true) ∧
    (bootLog (runMoments boot s) .empty).reset = true ∧
    (∀ m, m ∈ runMoments (boot ++ work) s → m.after.cfg = s.cfg) ∧
    (s.cfg.wregReset = .clear ∨ ∀ j, j ∈ c.wregs → j ∈ (bootLog (runMoments boot s) .empty).strobed) ∧
    bootKept c (runMoments (boot ++ work) s) .empty = true := by
  simp only [Booted, Bool.and_eq_true, Bool.or_eq_true, List.all_eq_true, beq_iff_eq, List.contains_iff_mem, and_assoc]

end Sys2Proof.Machine
end

