-- ==== Sys2Proof/Tests/Slice0.lean ====
section
/-! SUPPORT. Small checks by evaluation. Words are written out from 30_encoding.md, results from the
vectors of 95_test_vectors.md (the id stands beside each test); and for every obligation with
hypotheses, a state and operands that meet them together. -/

namespace Sys2Proof.Tests

open Sys2Proof.Machine

/-! ### Small states: S0 of 95_test_vectors.md, with the vector's fields changed -/

/-- S0 with the read registers of section L2. -/
def s0 : State := { State.reset with rreg := [0x10#8, 0x20#8, 0x30#8, 0x40#8, 0x50#8] }

/-- S0 with CLK low. -/
def low : State := { s0 with clk := false }

/-- CLK low, at the start of a byte, in a protocol state. -/
def frameIn (p : ProtoState) : State := { low with st := p }

/-- Reset held. -/
def held : State := { s0 with rst := true }

/-- K0 with one parameter changed. -/
def allBut : Config := { Config.reference with idxInc := .allButIdx }
def noInc : Config := { Config.reference with idxInc := .none }
def readOnly : Config := { Config.reference with captureGate := .readOnly }
def ackWrite : Config := { Config.reference with addrAckWrite := true }
def keep : Config := { Config.reference with wregReset := .keep }
def activeLow : Config := { Config.reference with rstActive := .low }

/-! ### WellFormed: each check refuses its ill-formed term -/

theorem test_wf_reference : Config.reference.wellFormed = true := by decide
theorem test_wf_rreg_slot : (Instr.rreg 5#8 0#8).wellFormed Config.reference = false := by decide
theorem test_wf_rreg_last : (Instr.rreg 4#8 0#8).wellFormed Config.reference = true := by decide
theorem test_wf_addrR_other : (Instr.addrR 0x2A#7 true).wellFormed Config.reference = false := by decide
theorem test_wf_addrW_other : (Instr.addrW 0x2A#7 true).wellFormed Config.reference = false := by decide
theorem test_wf_addrNm_own : (Instr.addrNm 0x55#7 true true).wellFormed Config.reference = false := by decide
theorem test_wf_nw_count : ({ Config.reference with nw := 257 } : Config).wellFormed = false := by decide
theorem test_wf_nr_count : ({ Config.reference with nr := 257 } : Config).wellFormed = false := by decide
theorem test_wf_wmap_slot : ({ Config.reference with wmap := [some 5] } : Config).wellFormed = false := by decide
theorem test_wf_rmap_slot : ({ Config.reference with rmap := [some 5] } : Config).wellFormed = false := by decide
theorem test_wf_wmap_injective : ({ Config.reference with wmap := [some 1, some 1] } : Config).wellFormed = false := by
  decide
theorem test_wf_rmap_injective : ({ Config.reference with rmap := [some 1, none, some 1] } : Config).wellFormed = false := by
  decide
theorem test_wf_map_length : mapWellFormed 5 (List.replicate 257 none) = false := by
  have h : ¬(List.replicate 257 (none : Option Nat)).length ≤ 256 := by rw [List.length_replicate]; omega
  simp only [mapWellFormed, h, decide_false, Bool.false_and]

/-! ### Decoding: words written out bit by bit from rules R91, R93, R97 to R102 -/

theorem test_decode_envClk : decode Config.reference .idle [false, false, true] = .ok (.envClk true) := by decide
theorem test_decode_envSda : decode Config.reference .write [false, true, false] = .ok (.envSda false) := by decide
theorem test_decode_rst : decode Config.reference .read [true, false, true] = .ok (.rst true) := by decide
/-- Program P3's item `SET 1 0x20`: 110000000100100000. -/
theorem test_decode_rreg : decode Config.reference .idle
    [true, true, false, false, false, false, false, false, false, true, false, false, true, false, false, false, false, false]
    = .ok (.rreg 1#8 0x20#8) := by decide
/-- V18: `11 00000101 00000000`. -/
theorem test_decode_rreg_refused : decode Config.reference .idle
    [true, true, false, false, false, false, false, true, false, true, false, false, false, false, false, false, false, false]
    = .error (.noReadSlot 5) := by decide
theorem test_decode_clkRise : decode Config.reference .idle [false, false, true, true] = .ok (.clkRise true) := by decide
theorem test_decode_clkFall : decode Config.reference .idle [false, true, false, true] = .ok (.clkFall true) := by decide
theorem test_decode_start : decode Config.reference .idle [true, true, false, true] = .ok .start := by decide
theorem test_decode_dataFallL : decode Config.reference .idle [true, true, false, false] = .ok .dataFallL := by decide
theorem test_decode_stop : decode Config.reference .idle [true, false, true, true] = .ok .stop := by decide
theorem test_decode_dataRiseL : decode Config.reference .idle [true, false, true, false] = .ok .dataRiseL := by decide
/-- The address byte 0xAB (W9) with a released ack slot. -/
theorem test_decode_addrR : decode Config.reference .devAddr
    [true, false, true, false, true, false, true, true, true] = .ok (.addrR 0x55#7 true) := by decide
theorem test_decode_addrW : decode Config.reference .devAddr
    [true, false, true, false, true, false, true, false, true] = .ok (.addrW 0x55#7 true) := by decide
/-- Byte 0x55 is address 0x2A, read direction (W8). -/
theorem test_decode_addrNm : decode Config.reference .devAddr
    [false, true, false, true, false, true, false, true, true] = .ok (.addrNm 0x2A#7 true true) := by decide
theorem test_decode_idx : decode Config.reference .idxPtr
    [false, false, false, false, false, false, true, true, true] = .ok (.idx 0x03#8 true) := by decide
theorem test_decode_wdata : decode Config.reference .write
    [true, false, true, false, false, true, false, true, true] = .ok (.wdata 0xA5#8 true) := by decide
theorem test_decode_rdataA : decode Config.reference .read
    [true, true, false, false, false, true, false, true, false] = .ok (.rdataA 0xC5#8) := by decide
theorem test_decode_rdataN : decode Config.reference .read
    [true, true, false, false, false, true, false, true, true] = .ok (.rdataN 0xC5#8) := by decide
theorem test_decode_idleFrame : decode Config.reference .idle
    [true, false, false, false, false, false, false, false, true] = .ok (.idleFrame 0x80#8 true) := by decide
theorem test_decode_width : decode Config.reference .idle [true, false] = .error (.noSuchWidth 2) := by decide
theorem test_table_rreg : decodeTableWord 24 0x3012A = some (.rreg 1#8 0x2A#8) := by decide
theorem test_table_start : decodeTableWord 8 0xD = some .start := by decide

/-! ### Instructions: one step each on a small state -/

/-- V15: no level change. -/
theorem test_envClk_same : runItems [.envClk true] s0 = s0 := by decide
/-- W1 row 9. -/
theorem test_envClk_store : (runItems [.envClk false]
    { s0 with st := .write, cnt := 8#4, inSr := 0xA5#8, ptr := 3#8, sdaRel := false, envSda := false }).wreg
    = [0#8, 0#8, 0#8, 0xA5#8, 0#8] := by decide
/-- V1 and V8. -/
theorem test_envSda_start : (runItems [.envSda false] s0).startDet = true := by decide
theorem test_envSda_engine_holds : (runItems [.envSda true] { s0 with envSda := false, sdaRel := false }).stopDet = false := by
  decide
/-- X4 and X5. -/
theorem test_rst_deassert : runItems [.rst true, .rst false] State.reset = State.reset := by decide
theorem test_rst_active_low : (runItems [.rst false]
    { s0 with cfg := activeLow, rst := true, st := .write, cnt := 3#4, ptr := 2#8 }).ptr = 0#8 := by decide
/-- V17. -/
theorem test_rreg : runItems [.rreg 2#8 0x77#8] s0 = { s0 with rreg := [0x10#8, 0x20#8, 0x77#8, 0x40#8, 0x50#8] } := by
  decide
theorem test_rreg_refused : exec (.rreg 5#8 0#8) s0 = .refused (.noReadSlot 5) := by rfl
/-- V9 and V10. -/
theorem test_clkRise_shift : (runItems [.clkRise true] { low with cnt := 3#4, inSr := 0x0A#8 }).inSr = 0x15#8 := by decide
theorem test_clkRise_ack : (runItems [.clkRise false] { low with cnt := 8#4, envSda := false }).mack = true := by decide
/-- F6 and O15. -/
theorem test_clkFall_stop : (runItems [.clkFall true]
    { s0 with cnt := 3#4, st := .write, ptr := 3#8, inSr := 0x5A#8, stopDet := true }).ptr = 0#8 := by decide
theorem test_clkFall_ack : (runItems [.clkFall true]
    { s0 with st := .write, cnt := 7#4, ptr := 1#8, stopDet := true }).sdaRel = false := by decide
/-- V1 and V2. -/
theorem test_start : (runItems [.start] s0).startDet = true := by decide
theorem test_start_blind : (runItems [.start] { s0 with startRst := true }).startDet = false := by decide
/-- V4. -/
theorem test_dataFallL : (runItems [.dataFallL] { low with startDet := true }).startDet = false := by decide
/-- V5 and V6. -/
theorem test_stop : (runItems [.stop] { s0 with envSda := false }).stopDet = true := by decide
theorem test_stop_blind : (runItems [.stop] { s0 with envSda := false, stopRst := true }).stopDet = false := by decide
/-- V7. -/
theorem test_dataRiseL : runItems [.dataRiseL] { low with envSda := false } = low := by decide
/-- B1. -/
theorem test_addrR_state : (runItems [.addrR 0x55#7 true] (frameIn .devAddr)).st = .read := by rfl
theorem test_addrR_out : (runItems [.addrR 0x55#7 true] (frameIn .devAddr)).outSr = 0x20#8 := by decide
/-- B2: the acknowledge of a write address is not driven by default. -/
theorem test_addrW_state : (runItems [.addrW 0x55#7 true] (frameIn .devAddr)).st = .idxPtr := by rfl
theorem test_addrW_acked : (runItems [.addrW 0x55#7 true] { frameIn .devAddr with cfg := ackWrite }).mack = true := by decide
/-- B3. -/
theorem test_addrNm : (runItems [.addrNm 0x2A#7 true true] (frameIn .devAddr)).st = .idle := by rfl
/-- B4. -/
theorem test_idx : (runItems [.idx 3#8 true] (frameIn .idxPtr)).ptr = 3#8 := by decide
/-- B5 and B6. -/
theorem test_wdata : (runItems [.wdata 0xA5#8 true] { frameIn .write with ptr := 3#8 }).update
    = [false, false, false, true, false] := by decide
theorem test_wdata_unmapped : (runItems [.wdata 0x99#8 true] { frameIn .write with ptr := 7#8 }).wreg
    = s0.wreg := by decide
/-- B7: the byte being sent is 0x10, half of it already shifted out once. -/
theorem test_rdataA : (runItems [.rdataA 0xFF#8]
    { frameIn .read with ptr := 1#8, outSr := 0x20#8, sdaRel := false }).inSr = 0x10#8 := by decide
/-- B8. -/
theorem test_rdataN : (runItems [.rdataN 0xFF#8]
    { frameIn .read with ptr := 1#8, outSr := 0x20#8, sdaRel := false }).st = .idle := by rfl
/-- B9. -/
theorem test_idleFrame : (runItems [.idleFrame 0xFF#8 true] (frameIn .idle)).st = .idle := by rfl
/-- The word placed as the next event is the one the step runs (log entry 5); a frame is read in IDLE. -/
theorem test_step_runs : step (State.reset.withFetchWord 8 0xD) = exec .start State.reset := by rfl
theorem test_step_frame : step (State.reset.withFetchWord 16 0x1FF) = exec (.idleFrame 0xFF#8 true) State.reset := by rfl

/-! ### Witnesses: for every obligation with hypotheses, a state and operands that meet them -/

theorem test_witness_DecodeInvertsEncode :
    (Instr.rreg 4#8 0xFF#8).wellFormed Config.reference = true ∧ (Instr.rreg 4#8 0xFF#8).decodedIn .read = true ∧
    (Instr.addrNm 0x54#7 true false).wellFormed Config.reference = true ∧
    (Instr.addrNm 0x54#7 true false).decodedIn .devAddr = true := by decide
theorem test_witness_EncodeInvertsDecode :
    decode Config.reference .read [true, true, true, true, true, true, true, true, false] = .ok (.rdataA 0xFF#8) := by
  decide
theorem test_witness_UnchangedLevelIsNoBusEvent :
    asserted { s0 with sdaRel := false } = false ∧ ({ s0 with sdaRel := false } : State).sdaRel = false := by decide
theorem test_witness_StepRefuses_slot :
    s0.cfg.wellFormed = true ∧ s0.cfg.nr ≤ (5#8).toNat ∧
    ({ s0 with input := [encode (.rreg 5#8 0#8)] } : State).input = encode (.rreg 5#8 0#8) :: [] := by decide
theorem test_witness_StepRefuses_config : ({ s0 with cfg := { Config.reference with nw := 257 } } : State).cfg.wellFormed = false := by
  decide
theorem test_witness_StepRunsDecodedInstruction :
    decode s0.cfg (openFrame { s0 with input := [[true, true, false, true]] }).st [true, true, false, true] = .ok .start := by
  decide
theorem test_witness_IdleBusKeepsEverything : s0.cfg.wellFormed = true ∧ s0.input = [] := by decide
theorem test_witness_Configuration : step s0 = .next s0 ∧ exec (.envClk true) s0 = .next s0 := ⟨rfl, rfl⟩
theorem test_witness_PresentValue : asserted s0 = false ∧ (4#8).toNat < s0.cfg.nr ∧ s0.rreg[(4#8).toNat]? = some 0x50#8 := by
  decide
/-- START, with its detector free and held (rule R139). -/
theorem test_witness_StartSets : (asserted s0 = false ∧ s0.clk = true ∧ sda s0 = true ∧ s0.startRst = false) ∧
    asserted { s0 with startRst := true } = false ∧ sda { s0 with startRst := true } = true := by decide
theorem test_witness_DataFallLow : asserted low = false ∧ low.clk = false ∧ sda low = true ∧ low.startRst = false := by decide
theorem test_witness_DataFallLow_held : sda { low with startRst := true } = true ∧ asserted { low with startRst := true } = false := by
  decide
theorem test_witness_StopSets : asserted { s0 with envSda := false } = false ∧ ({ s0 with envSda := false } : State).clk = true ∧
    ({ s0 with envSda := false } : State).sdaRel = true ∧ asserted { s0 with sdaRel := false } = false := by decide
theorem test_witness_DataRiseLow : asserted { low with envSda := false } = false ∧ ({ low with envSda := false } : State).clk = false ∧
    ({ low with envSda := false } : State).sdaRel = true := by decide
/-- RisingEdgeResult: an ack slot, and the last data slot beside it. -/
theorem test_witness_RisingEdge : asserted { low with cnt := 8#4 } = false ∧ asserted { low with cnt := 7#4 } = false ∧
    low.clk = false := by decide
/-- FallingEdgeLeavesTheRest, BitCounterCounts and the other statements about one falling edge: the
positions 6, 7, 8 and a state no run reaches. -/
theorem test_witness_FallingEdge : s0.clk = true ∧ asserted { s0 with cnt := 6#4 } = false ∧ asserted { s0 with cnt := 7#4 } = false ∧
    asserted { s0 with cnt := 8#4 } = false ∧ asserted { s0 with cnt := 15#4 } = false := by decide
/-- FallingEdgeLeavesTheRest's detector clauses: the engine's own drive lowers and raises the wire. -/
theorem test_witness_FallingEdge_lowers : sda { s0 with st := .write, cnt := 7#4 } = true ∧
    sda (driveClk false { s0 with st := .write, cnt := 7#4 }) = false := by decide
theorem test_witness_FallingEdge_raises : sda { s0 with st := .write, cnt := 8#4, sdaRel := false } = false ∧
    sda (driveClk false { s0 with st := .write, cnt := 8#4, sdaRel := false }) = true := by decide
theorem test_witness_Misfit : (s0.clk = true ∨ sda s0 ≠ true) ∧ (low.clk = false ∨ sda low ≠ true) ∧ (sda low = false ∨ low.clk = false) ∧
    (sda s0 = false ∨ s0.clk = true) ∧ (sda s0 = true ∨ s0.clk = false ∨ s0.sdaRel = false) ∧
    (sda low = true ∨ low.clk = true ∨ low.sdaRel = false) := by decide
/-- StartIsReportedOnce, OrderOfLineChangesMatters and the three transactions. -/
theorem test_witness_StartIsReportedOnce : asserted s0 = false ∧ s0.clk = true ∧ sda s0 = true ∧ s0.startRst = false ∧
    s0.startDet = false := by decide
/-- The reset clause of BitCounterCounts, ProtocolStateTable, IndexPointerNext and
OutputShiftRegisterNext. -/
theorem test_witness_BitCounter_reset : exec (.rst true) { s0 with cnt := 8#4 } = .next { s0 with rst := true } ∧
    asserted { s0 with rst := true } = true := ⟨rfl, rfl⟩
theorem test_witness_MasterAckCapture : asserted low = false ∧ low.clk = false ∧ asserted s0 = false ∧ s0.clk = true := by decide
/-- WriteStrobeStores: a mapped slot at the end of the map, and the first unmapped index. -/
theorem test_witness_WriteStrobe : Memory.wf { s0 with st := .write, cnt := 8#4, ptr := 4#8 } = true ∧
    slotOf s0.cfg.wmap 4#8 = some 4 ∧ slotOf s0.cfg.wmap 5#8 = none := by decide
/-- WriteRegistersChangeOnlyByStrobe: a register changes by the strobe, and by reset under CLEAR. -/
theorem test_witness_WriteRegisters_strobe : isHostEvent (.envClk false) = true ∧
    (runItems [.envClk false] { s0 with st := .write, cnt := 8#4, inSr := 0xA5#8 }).wreg[0]? ≠ s0.wreg[0]? := by decide
theorem test_witness_WriteRegisters_reset : (runItems [.rst true] { s0 with wreg := [1#8, 2#8, 3#8, 4#8, 5#8] }).wreg[4]? ≠ some 5#8 ∧
    s0.cfg.wregReset = .clear := by decide
theorem test_witness_RegisterFile : 4 < s0.wreg.length ∧ (3 : Nat) ≠ 4 := by decide
/-- OutputShiftRegisterNext: a load, and no load. -/
theorem test_witness_OutputShift : slotOf s0.cfg.rmap 4#8 = some 4 ∧ slotOf s0.cfg.rmap 5#8 = none ∧ s0.cfg.captureGate = .always := by
  decide
/-- ReadRegisterWrite: reset held and not, the last slot and the first that is not there. -/
theorem test_witness_ReadRegisterWrite : heldInReset held = true ∧ heldInReset s0 = true ∧ (4#8).toNat < held.cfg.nr ∧
    held.cfg.nr ≤ (5#8).toNat := by decide
/-- OnlyFallingEdgesMoveTheDrive: each of the two ways. -/
theorem test_witness_Drive_fall : (runItems [.envClk false] { s0 with st := .write, cnt := 7#4 }).sdaRel ≠ s0.sdaRel := by decide
theorem test_witness_Drive_reset : (runItems [.rst true] { s0 with sdaRel := false }).sdaRel ≠ false := by decide
theorem test_witness_Pulses : isHostEvent (.envSda false) = true ∧ asserted (runItems [.envSda false] s0) = false ∧
    ¬(Instr.envSda false = .envClk false ∧ s0.clk = true) := by decide
theorem test_witness_IdleNeverDrives : s0.st = .idle ∧ (0x54#8).extractLsb' 1 7 ≠ s0.cfg.devAddr := by decide
/-- DriveSlots: a driven slot with no STOP pending, and the latent window. -/
theorem test_witness_DriveSlots : (driveClk false { s0 with st := .read, cnt := 6#4 }).sdaRel = false ∧
    ({ s0 with st := .read, cnt := 6#4, stopDet := true } : State).cnt < 7#4 := by decide
theorem test_witness_DriveSlots_ack : lsbMark { s0 with st := .write, cnt := 7#4, stopDet := true } = true ∧
    driveAck { s0 with st := .write, cnt := 7#4, stopDet := true } = true := by decide
theorem test_witness_ResetHeld : asserted held = true ∧ heldInReset held = true ∧ (4#8).toNat < held.cfg.nr := by decide
theorem test_witness_Boot : poweredUp { s0 with st := .read, cnt := 8#4, clk := false, sdaRel := false, startDet := true } = true := by
  decide
theorem test_witness_Invariant : engineInv s0 = true ∧ step s0 = .next s0 ∧ outSrDrained s0 = true := ⟨by decide, rfl, by decide⟩
theorem test_witness_OutSr_lsb : outSrDrained { s0 with cnt := 7#4 } = true ∧ lsbMark { s0 with cnt := 7#4 } = true := by decide
/-- WellFormedMasterSeesNoConflict: reset asserted by the one event before the work; then reset ends,
START, the first slot of an address byte. -/
def startWork : List MasterMove :=
  [⟨.rst false, .receive⟩, ⟨.envSda false, .condition⟩, ⟨.envClk false, .receive⟩, ⟨.envSda true, .receive⟩,
    ⟨.envClk true, .transmit true⟩, ⟨.envClk false, .receive⟩]
def idleBus : BusView := ⟨false, false, 0, true, false, false⟩
theorem test_witness_WellFormedMaster :
    Booted ⟨true, [], []⟩ [.rst true] (startWork.map MasterMove.event) s0 = true ∧ asserted (runItems [.rst true] s0) = true ∧
    wellFormedMaster startWork idleBus (runItems [.rst true] s0) = true := by
  decide
/-- The second conclusion's premise: the ack slot of a write-data byte, which the engine drives and a
well-formed master clocks while it receives. -/
theorem test_witness_WellFormedMaster_ack :
    masterMay ⟨true, false, 8, false, false, false⟩ ⟨.envClk true, .receive⟩ { frameIn .write with cnt := 8#4, sdaRel := false } = true ∧
    engineSlot { frameIn .write with cnt := 8#4, sdaRel := false } = true := by decide
/-- Rule R299: a STOP after an ack slot of the bus, with the engine's `cnt` realigned by a reset; and no
START in the middle of another device's byte, with the engine in IDLE. -/
theorem test_master_stop_misaligned : masterMay ⟨true, false, 0, false, false, false⟩ ⟨.envSda true, .condition⟩
    { s0 with envSda := false, cnt := 4#4 } = true := by decide
theorem test_master_start_midByte : masterMay ⟨true, false, 3, false, false, false⟩ ⟨.envSda false, .condition⟩ s0 = false := by
  decide
/-- Rule R299 item 4: no STOP after an acknowledged read byte, one after a NACKed one. -/
theorem test_master_read_acked : masterMay ⟨true, false, 0, false, true, true⟩ ⟨.envSda true, .condition⟩ { s0 with envSda := false } = false := by
  decide
theorem test_master_read_nacked : masterMay ⟨true, false, 0, false, true, false⟩ ⟨.envSda true, .condition⟩ { s0 with envSda := false } = true := by
  decide
/-- Rule R144: a rising edge against the engine's low, with a master that means a 1, and with one that
receives. -/
theorem test_conflict_one : DriveConflict [⟨.envClk true, .transmit true⟩] { low with sdaRel := false } = true := by decide
theorem test_conflict_receive : DriveConflict [⟨.envClk true, .receive⟩] { low with sdaRel := false } = false := by decide
theorem test_conflict_no_edge : DriveConflict [⟨.envClk false, .transmit true⟩] { low with sdaRel := false } = false := by decide
/-- Rule R296, each item: no reset; reset ended on a bus that is not idle; KEEP without a strobe; a load
edge of a read register the application has not written, and of one it has. -/
theorem test_booted_none : Booted ⟨true, [], []⟩ [.envClk true] [] s0 = false := by decide
theorem test_booted_busy_bus : Booted ⟨false, [], []⟩ [.envSda false, .rst true, .rst false] [] s0 = false := by decide
theorem test_booted_keep : Booted ⟨true, [3], []⟩ [.rst true, .rst false] [] { s0 with cfg := keep } = false := by decide
/-- Eight falling edges from reset on; the eighth is a load edge in IDLE (O9). -/
def eightFalls : List Instr := (List.replicate 8 [Instr.envClk false, Instr.envClk true]).flatten
theorem test_booted_unwritten : Booted ⟨true, [], [0]⟩ [.rst true, .rst false] eightFalls s0 = false := by decide
theorem test_booted_written : Booted ⟨false, [], [0]⟩ [.rst true, .rst false, .rreg 0#8 7#8] eightFalls s0 = true := by decide
theorem test_witness_FrameNetEffect : atFrameStart (frameIn .read) = true := by decide
theorem test_witness_AddrFrames : atFrameStart (frameIn .devAddr) = true ∧ (frameIn .devAddr).st = .devAddr ∧
    (frameIn .devAddr).sdaRel = true ∧ (0x54#7 : Addr7) ≠ (frameIn .devAddr).cfg.devAddr := by decide
theorem test_witness_IndexFrame : atFrameStart (frameIn .idxPtr) = true ∧ (frameIn .idxPtr).st = .idxPtr ∧
    (frameIn .idxPtr).sdaRel = true := by decide
theorem test_witness_WriteDataFrame : atFrameStart (frameIn .write) = true ∧ (frameIn .write).st = .write ∧
    (frameIn .write).sdaRel = true := by decide
theorem test_witness_ReadDataFrames : atFrameStart { frameIn .read with outSr := 0x8A#8 } = true ∧
    ({ frameIn .read with outSr := 0x8A#8 } : State).sdaRel = (0xC5#8).getLsbD 7 ∧ 0x8A#8 = 0xC5#8 <<< 1 := by decide
theorem test_witness_IdleFrame : atFrameStart (frameIn .idle) = true ∧ (frameIn .idle).st = .idle ∧ (frameIn .idle).sdaRel = true := by
  decide
/-- RepeatedStopsStayIdle: the edge that consumes the STOP, and an event after it. -/
theorem test_witness_RepeatedStops : asserted { s0 with stopDet := true } = false ∧ s0.startDet = false ∧ s0.st = .idle ∧
    s0.ptr = 0x00#8 ∧ s0.cfg.idxInc ≠ .allButIdx ∧ isHostEvent (.envSda false) = true := by decide
theorem test_witness_StartAbandons : asserted { s0 with startDet := true } = false ∧ s0.clk = true ∧
    ({ s0 with startDet := true } : State).startDet = true := by decide

/-- InvariantHoldsOnceBooted and BootedRunForgetsThePowerUpDraw: two power-up draws, every read register
written before the load edge, a write register the claim speaks of (K0 clears it). -/
def drawn : State := { s0 with st := .read, cnt := 8#4, ptr := 9#8, sdaRel := false, wreg := [1#8, 2#8, 3#8, 4#8, 5#8], rreg := List.replicate 5 0xFF#8 }
def bootAll : List Instr :=
  [.rst true, .rst false, .rreg 0#8 7#8, .rreg 1#8 7#8, .rreg 2#8 7#8, .rreg 3#8 7#8, .rreg 4#8 7#8]
theorem test_witness_Booted : poweredUp s0 = true ∧ poweredUp drawn = true ∧ drawn.cfg = s0.cfg ∧ drawn.clk = s0.clk ∧
    drawn.envSda = s0.envSda ∧ drawn.rst = s0.rst ∧ drawn.input = s0.input ∧
    Booted ⟨false, [4], [0, 1, 2, 3, 4]⟩ bootAll [.envClk false] s0 = true := by decide
theorem test_witness_Booted_rregs : ∀ k, k < s0.cfg.nr → k ∈ [0, 1, 2, 3, 4] := by decide

/-! ### Parameters: vectors under other configurations -/

/-- T6. -/
theorem test_idx_inc_none : (runItems [.envClk false]
    { s0 with cfg := noInc, st := .write, cnt := 8#4, ptr := 2#8, inSr := 7#8 }).ptr = 2#8 := by decide
/-- T7. -/
theorem test_idx_inc_all : (runItems [.envClk false] { s0 with cfg := allBut, cnt := 8#4, ptr := 2#8 }).ptr = 3#8 := by decide
/-- O5. -/
theorem test_capture_gate : (runItems [.envClk false]
    { s0 with cfg := readOnly, st := .devAddr, cnt := 7#4, inSr := 0x57#8, ptr := 2#8 }).capture
    = [false, false, false, false, false] := by decide
/-- X6. -/
theorem test_wreg_keep : (runItems [.rst true] { s0 with cfg := keep, wreg := [0#8, 0#8, 0x5C#8, 0#8, 0#8] }).wreg
    = [0#8, 0#8, 0x5C#8, 0#8, 0#8] := by decide

end Sys2Proof.Tests
end

/-! # Proofs: the machine's state (10_state.md)

What the state obligations need of a host event, and their proofs. -/

namespace Sys2Proof.Machine

/-! ### Invariants of the edge rules

Every host event writes its input and then runs some of the five register batches of rule R123. A
property that reads no input and that each batch keeps is kept by every event. -/

/-- `P` reads no input line and no read register, and reset and every edge handler keep it. -/
structure EdgeInvariant (P : State → Prop) : Prop where
  inputs : ∀ (s : State) (c e r : Bit) (l : List Byte), P s → P { s with clk := c, envSda := e, rst := r, rreg := l }
  reset : ∀ s, P s → P (resetRegisters s)
  fall : ∀ s, P s → P (fallingEdge s)
  rise : ∀ d s, P s → P (risingEdge d s)
  dataFall : ∀ s, P s → P (dataFall s)
  dataRise : ∀ s, P s → P (dataRise s)

theorem EdgeInvariant.clkHandler {P : State → Prop} (hP : EdgeInvariant P) (c : Bit) {s : State} (h : P s) :
    P (clkHandler c s) := by
  unfold Machine.clkHandler
  split
  · exact hP.rise _ _ h
  · split
    · exact hP.fall _ h
    · exact h

theorem EdgeInvariant.dataHandler {P : State → Prop} (hP : EdgeInvariant P) (d : Bit) {s : State} (h : P s) :
    P (dataHandler d s) := by
  obtain hd | hd | hd := dataHandler_cases d s <;> rw [hd]
  · exact h
  · exact hP.dataFall s h
  · exact hP.dataRise s h

theorem EdgeInvariant.react {P : State → Prop} (hP : EdgeInvariant P) (s0 : State) {s : State} (h : P s) :
    P (react s0 s) := by
  cases ha : asserted s
  · rw [react_running ha]
    exact hP.dataHandler _ (hP.clkHandler _ h)
  · rw [react_asserted ha]
    exact hP.reset s h

/-- The invariant rule of one host event. -/
theorem EdgeInvariant.event {P : State → Prop} (hP : EdgeInvariant P) {s t : State} (e : EventStep s t) (h : P s) :
    P t := by
  cases e with
  | clk v => exact hP.react s (hP.inputs s v s.envSda s.rst s.rreg h)
  | sda v => exact hP.react s (hP.inputs s s.clk v s.rst s.rreg h)
  | rst v => exact hP.react s (hP.inputs s s.clk s.envSda v s.rreg h)
  | rreg k v => exact hP.react s (hP.inputs s s.clk s.envSda s.rst (s.rreg.set k v) h)

/-! ### The bit counter (rule R157) -/

theorem nextCnt_le {s : State} (h : s.cnt ≤ 8#4) : nextCnt s ≤ 8#4 := by
  unfold nextCnt
  split
  · decide
  · rename_i hne
    have h8 : s.cnt ≠ 8#4 := by
      intro h8
      cases hd : s.startDet <;> simp [ackMark, h8, hd] at hne
    bv_omega

theorem cnt_le_edgeInvariant : EdgeInvariant (fun s => s.cnt ≤ 8#4) where
  inputs _ _ _ _ _ h := h
  reset _ _ := by simp
  fall _ h := nextCnt_le h
  rise _ _ h := h
  dataFall _ h := h
  dataRise _ h := h

/-! ### The detectors and their resetters (rule R49) -/

/-- A resetter that is 1 holds its detector at 0 (rules R129, R132). -/
structure ResettersExclude (s : State) : Prop where
  start : s.startRst = true → s.startDet = false
  stop : s.stopRst = true → s.stopDet = false

theorem resettersExclude_resetRegisters (s : State) : ResettersExclude (resetRegisters s) :=
  ⟨fun _ => rfl, fun _ => rfl⟩

theorem resettersExclude_edgeInvariant : EdgeInvariant ResettersExclude where
  inputs _ _ _ _ _ h := ⟨h.start, h.stop⟩
  reset s _ := resettersExclude_resetRegisters s
  fall _ h := ⟨h.start, h.stop⟩
  rise _ _ _ := ⟨fun _ => rfl, fun _ => rfl⟩
  dataFall s h := ⟨fun hr => by simpa [show s.startRst = true from hr] using h.start hr, h.stop⟩
  dataRise s h := ⟨h.start, fun hr => by simpa [show s.stopRst = true from hr] using h.stop hr⟩

/-! ### The notification pulses (rules R49, R180, R202) -/

/-- A pulse vector pulses at its slot at most: slots are numbered without repetition. -/
theorem pulseVector_count_le_one (n : Nat) (c : Bit) (slot : Option Nat) :
    (pulseVector n c slot).count true ≤ 1 := by
  cases c with
  | false => simp [pulseVector_false, List.count_replicate]
  | true =>
    cases slot with
    | none => simp [pulseVector, List.map_const', List.count_replicate]
    | some j =>
      have hslot : (pulseVector n true (some j)).count true = (List.range n).count j := by
        simp only [pulseVector, List.count, List.countP_map]
        refine List.countP_congr fun k _ => ?_
        simp [@eq_comm _ j k]
      rw [hslot]
      exact List.nodup_iff_count_le_one.1 List.nodup_range j

theorem cond_of_true_mem_pulseVector {n : Nat} {c : Bit} {slot : Option Nat} (h : true ∈ pulseVector n c slot) :
    c = true := by
  cases c with
  | false => simp [pulseVector_false] at h
  | true => rfl

/-- At most one `update` and one `capture` pulse, and never one of each. -/
structure PulsesSingle (s : State) : Prop where
  update : s.update.count true ≤ 1
  capture : s.capture.count true ≤ 1
  apart : true ∈ s.update → true ∉ s.capture

theorem pulsesSingle_resetRegisters (s : State) : PulsesSingle (resetRegisters s) where
  update := by simp [List.count_replicate]
  capture := by simp [List.count_replicate]
  apart h := by simp at h

/-- A write strobe is at the ack marker and a load at the lsb marker, so no edge makes both pulses. -/
theorem pulsesSingle_fallingEdge (s : State) : PulsesSingle (fallingEdge s) where
  update := pulseVector_count_le_one _ _ _
  capture := pulseVector_count_le_one _ _ _
  apart hu hc := by
    have hack : ackMark s = true := ((writeStrobe_iff s).1 (cond_of_true_mem_pulseVector hu)).1
    have hlsb : lsbMark s = true := ((loads_iff s).1 (cond_of_true_mem_pulseVector hc)).1
    simp [ackMark_not_lsbMark hack] at hlsb

theorem pulsesSingle_edgeInvariant : EdgeInvariant PulsesSingle where
  inputs _ _ _ _ _ h := ⟨h.update, h.capture, h.apart⟩
  reset s _ := pulsesSingle_resetRegisters s
  fall s _ := pulsesSingle_fallingEdge s
  rise _ _ h := ⟨h.update, h.capture, h.apart⟩
  dataFall _ h := ⟨h.update, h.capture, h.apart⟩
  dataRise _ h := ⟨h.update, h.capture, h.apart⟩

/-! ### The whole invariant -/

theorem poweredUp_iff (s : State) :
    poweredUp s = true ↔ s.cfg.wellFormed = true ∧ Memory.wf s = true ∧ s.cnt ≤ 8#4 := by
  simp [poweredUp, and_assoc]

theorem heldInReset_iff (s : State) : heldInReset s = true ↔ (asserted s = true → s = resetRegisters s) := by
  cases ha : asserted s <;> simp [heldInReset, ha]

/-- `engineInv` in four parts: the part that power-up gives already, and the three that need a
reset. -/
theorem engineInv_iff (s : State) : engineInv s = true ↔
    poweredUp s = true ∧ ResettersExclude s ∧ PulsesSingle s ∧ heldInReset s = true := by
  rw [poweredUp_iff]
  simp only [engineInv, atMostOne, Bool.and_eq_true, Bool.not_eq_true', Bool.and_eq_false_imp, decide_eq_true_eq,
    List.contains_eq_mem, decide_eq_false_iff_not, and_assoc]
  constructor
  · rintro ⟨hcfg, hmem, hcnt, hstart, hstop, hupd, hcap, hapart, hheld⟩
    exact ⟨hcfg, hmem, hcnt, ⟨hstart, hstop⟩, ⟨hupd, hcap, hapart⟩, hheld⟩
  · rintro ⟨hcfg, hmem, hcnt, hdet, hpul, hheld⟩
    exact ⟨hcfg, hmem, hcnt, hdet.start, hdet.stop, hpul.update, hpul.capture, hpul.apart, hheld⟩

theorem event_cfg {s t : State} (e : EventStep s t) : t.cfg = s.cfg := by
  cases e <;> exact react_cfg _ _

/-- Every host event keeps the range of the registers, before a reset and after it (rule R47). -/
theorem poweredUp_event {s t : State} (e : EventStep s t) (h : poweredUp s = true) : poweredUp t = true := by
  obtain ⟨hcfg, hmem, hcnt⟩ := (poweredUp_iff s).1 h
  exact (poweredUp_iff t).2 ⟨(event_cfg e).symm ▸ hcfg, memory_wf_event e hmem, cnt_le_edgeInvariant.event e hcnt⟩

/-- Every host event keeps the invariant; that reset holds the registers it makes true itself. -/
theorem engineInv_event {s t : State} (e : EventStep s t) (h : engineInv s = true) : engineInv t = true := by
  obtain ⟨hpow, hres, hpul, -⟩ := (engineInv_iff s).1 h
  exact (engineInv_iff t).2 ⟨poweredUp_event e hpow, resettersExclude_edgeInvariant.event e hres,
    pulsesSingle_edgeInvariant.event e hpul,
    (heldInReset_iff t).2 fun ha => (heldInReset_iff t).1 (event_asserted_held e ha) ha⟩

theorem engineInv_setInput (s : State) (l : List Word) (h : engineInv s = true) :
    engineInv { s with input := l } = true := by
  obtain ⟨hpow, hres, hpul, hheld⟩ := (engineInv_iff s).1 h
  refine (engineInv_iff _).2 ⟨hpow, ⟨hres.start, hres.stop⟩, ⟨hpul.update, hpul.capture, hpul.apart⟩, ?_⟩
  exact (heldInReset_iff _).2 fun ha =>
    congrArg (fun u : State => { u with input := l }) ((heldInReset_iff s).1 hheld ha)

/-- Settles O39: what every host event keeps, a step keeps. -/
theorem stepKeepsTheInvariant : Obligations.StepKeepsTheInvariant :=
  fun _ _ hs h => step_keeps (P := fun u => engineInv u = true) engineInv_setInput (fun _ _ => engineInv_event) h hs

/-- Settles O40, on the one state it speaks of. -/
theorem resetMeetsTheInvariants : Obligations.ResetMeetsTheInvariants := by
  unfold Obligations.ResetMeetsTheInvariants
  decide

/-! ### From power-up to the first reset (rules R295, R296) -/

/-- A host event that leaves reset asserted establishes the whole invariant, whatever the registers
held (rule R292). -/
theorem engineInv_of_event_asserted {s t : State} (e : EventStep s t) (hs : poweredUp s = true)
    (ha : asserted t = true) : engineInv t = true := by
  have hheld := event_asserted_held e ha
  have ht : t = resetRegisters t := (heldInReset_iff t).1 hheld ha
  exact (engineInv_iff t).2 ⟨poweredUp_event e hs, ht ▸ resettersExclude_resetRegisters t,
    ht ▸ pulsesSingle_resetRegisters t, hheld⟩

/-- A well-formed host event on a run is one event, never a chain of several or of none. -/
theorem applyInstr_event {i : Instr} {s : State} (hi : isHostEvent i = true) (hw : i.wellFormed s.cfg = true) :
    EventStep s (applyInstr i s) := by
  cases i with
  | envClk v => exact .clk v s
  | envSda v => exact .sda v s
  | rst v => exact .rst v s
  | rreg k v =>
    have hk : k.toNat < s.cfg.nr := of_decide_eq_true hw
    have happly : applyInstr (.rreg k v) s = applyRreg k.toNat v s := by simp [applyInstr, exec, execRreg, hk]
    exact happly ▸ .rreg k.toNat v s hk
  | clkRise _ | clkFall _ | start | dataFallL | stop | dataRiseL => cases hi
  | addrR _ _ | addrW _ _ | addrNm _ _ _ | idx _ _ | wdata _ _ => cases hi
  | rdataA _ | rdataN _ | idleFrame _ _ => cases hi

/-- Along a run of host events from power-up on, the invariant holds once the log has seen a reset. -/
theorem engineInv_of_bootLog_reset (boot : List Instr) {l : BootLog} {s : State}
    (hboot : ∀ i ∈ boot, isHostEvent i = true ∧ i.wellFormed s.cfg = true) (hpow : poweredUp s = true)
    (hinv : l.reset = true → engineInv s = true) (hreset : (bootLog (runMoments boot s) l).reset = true) :
    engineInv (runItems boot s) = true := by
  induction boot generalizing l s with
  | nil => exact hinv hreset
  | cons i is ih =>
    obtain ⟨hi, hw⟩ := hboot i (by simp)
    have e : EventStep s (applyInstr i s) := applyInstr_event hi hw
    refine ih (l := l.note ⟨s, i, applyInstr i s⟩) ?_ (poweredUp_event e hpow) ?_ hreset
    · intro j hj
      rw [event_cfg e]
      exact hboot j (by simp [hj])
    · intro hnote
      obtain hl | ha : l.reset = true ∨ asserted (applyInstr i s) = true := by simpa using hnote
      · exact engineInv_event e (hinv hl)
      · exact engineInv_of_event_asserted e hpow ha

/-- Settles O57: the boot part of the run reaches a reset, which establishes the invariant, and every
later event keeps it. -/
theorem invariantHoldsOnceBooted : Obligations.InvariantHoldsOnceBooted := by
  intro c boot work s hpow hbooted
  obtain ⟨hevents, hreset, -, -, -⟩ := (booted_iff c boot work s).1 hbooted
  have hboot : engineInv (runItems boot s) = true :=
    engineInv_of_bootLog_reset boot (fun i hi => hevents i (by simp [hi])) hpow (by simp [BootLog.empty]) hreset
  rw [runItems_append]
  exact runItems_keeps (P := fun u => engineInv u = true) (fun _ _ => engineInv_event) work hboot

/-! ### The configuration (rule R45) -/

/-- Settles O8: no host event writes the configuration, and instructions and steps are made of host
events. -/
theorem configurationNeverChanges : Obligations.ConfigurationNeverChanges := by
  have hevent : ∀ c : Config, ∀ u v, EventStep u v → u.cfg = c → v.cfg = c :=
    fun _ _ _ e h => (event_cfg e).trans h
  refine ⟨fun s t h => ?_, fun i s t h => ?_⟩
  · exact step_keeps (P := fun u => u.cfg = s.cfg) (fun _ _ hu => hu) (hevent s.cfg) h rfl
  · exact exec_keeps (P := fun u => u.cfg = s.cfg) (hevent s.cfg) h rfl

/-! ### How long a pulse lasts (rules R28, R29, R303) -/

/-- Processing an event neither asserts nor ends reset: the event's input decides (rule R290). -/
theorem asserted_react (s0 s : State) : asserted (react s0 s) = asserted s := by
  obtain ⟨-, -, hrst, -⟩ := react_inputs s0 s
  unfold asserted
  rw [react_cfg, hrst]

/-- With reset inactive only the falling edge writes the pulses. -/
theorem react_keeps_pulses {s0 s : State} (ha : asserted (react s0 s) = false)
    (hfall : ¬(s0.clk = true ∧ s.clk = false)) :
    (react s0 s).update = s.update ∧ (react s0 s).capture = s.capture := by
  have hclk : (clkHandler s0.clk s).update = s.update ∧ (clkHandler s0.clk s).capture = s.capture := by
    unfold clkHandler
    split
    · exact ⟨rfl, rfl⟩
    · split
      · next hf => exact absurd (by simpa using hf) hfall
      · exact ⟨rfl, rfl⟩
  rw [asserted_react] at ha
  rw [react_running ha]
  obtain hd | hd | hd := dataHandler_cases (sda s0) (clkHandler s0.clk s) <;> rw [hd] <;> exact hclk

/-- Settles O32: an event other than ENV_CLK leaves CLK's level alone, so only ENV_CLK(0) with CLK high
is a falling edge. -/
theorem pulsesLastToTheNextFallingEdge : Obligations.PulsesLastToTheNextFallingEdge := by
  intro i s t hi h ha hfall
  cases i with
  | envClk v =>
    injection h with h; subst h
    refine react_keeps_pulses (s := { s with clk := v }) ha ?_
    rintro ⟨hs, hv⟩
    exact hfall ⟨congrArg Instr.envClk hv, hs⟩
  | envSda v =>
    injection h with h; subst h
    exact react_keeps_pulses (s := { s with envSda := v }) ha (by simp)
  | rst v =>
    injection h with h; subst h
    exact react_keeps_pulses (s := { s with rst := v }) ha (by simp)
  | rreg k v =>
    simp only [exec, execRreg] at h
    split at h
    · injection h with h; subst h
      exact react_keeps_pulses (s := setRreg s k.toNat v) ha (by simp)
    · cases h
  | clkRise _ | clkFall _ | start | dataFallL | stop | dataRiseL => cases hi
  | addrR _ _ | addrW _ _ | addrNm _ _ _ | idx _ _ | wdata _ _ => cases hi
  | rdataA _ | rdataN _ | idleFrame _ _ => cases hi

/-! ### Asserting reset (rules R46, R290, R292) -/

theorem asserted_of_activeLevel {s : State} (h : s.rst = activeLevel s.cfg) : asserted s = true := by
  cases hl : s.cfg.rstActive <;> simp [asserted, h, activeLevel, hl]

theorem driveRst_activeLevel (s : State) :
    driveRst (activeLevel s.cfg) s = resetRegisters { s with rst := activeLevel s.cfg } :=
  react_asserted (asserted_of_activeLevel rfl)

/-- The engine releases DATA in reset, so the wire is what the environment leaves it. -/
theorem sda_resetRegisters (s : State) : sda (resetRegisters s) = s.envSda := by
  simp [sda]

/-- Settles O35: the reset override, field by field, from every state. -/
theorem resetAssertionResult : Obligations.ResetAssertionResult := by
  intro s
  refine ⟨_, congrArg Host.Outcome.next (driveRst_activeLevel s), rfl, ?_, sda_resetRegisters _⟩
  rw [asserted_resetRegisters]
  exact asserted_of_activeLevel rfl

end Sys2Proof.Machine

/-! # Proofs: the register file (20_memory.md) -/

namespace Sys2Proof.Machine

/-- Settles O27, from the read-after-write laws of `wwrite` (rule R66). -/
theorem registerFileReadAfterWrite : Obligations.RegisterFileReadAfterWrite :=
  fun w j v hj => ⟨wwrite_same v hj, wwrite_length w j v, fun _ hi => wwrite_other v hi.symm⟩

end Sys2Proof.Machine

/-! # Proofs: the encoding (30_encoding.md)

The decoder and the encoder undo each other; what a word or an event of no effect leaves alone; and the
boot run, as events of the alphabet. -/

namespace Sys2Proof

/-! ### Decoding what the encoder writes, one equation per alphabet -/

/-- Rule R91, in the bytes RREG's word is made of. -/
theorem decode_encode_rreg (c : Config) (st : ProtoState) (k v : Byte) :
    decode c st (encode (.rreg k v)) = decodeRreg c k v := by
  refine (decode_rreg c st k v).trans ?_
  rw [byteOfBits_bitsOfByte, byteOfBits_bitsOfByte]

/-- Rule R97: in DEV_ADDR a frame's word is an address, a direction and an ack slot. -/
theorem decode_devAddr_frame (c : Config) (a : Addr7) (dir k : Bit) :
    decode c .devAddr (bitsOfAddr a ++ [dir, k]) = .ok (decodeAddr c a dir k) := by
  refine (decode_addr_frame c .devAddr a dir k).trans ?_
  show Except.ok (decodeAddr c (addrOfBits (bitsOfAddr a)) dir k) = _
  rw [addrOfBits_bitsOfAddr]

theorem decodeAddr_own (c : Config) (dir k : Bit) :
    decodeAddr c c.devAddr dir k = if dir then .addrR c.devAddr k else .addrW c.devAddr k := if_pos rfl

theorem decodeAddr_other {c : Config} {b : Addr7} (h : b ≠ c.devAddr) (dir k : Bit) :
    decodeAddr c b dir k = .addrNm b dir k := if_neg h

/-- Rules R98 to R102: outside DEV_ADDR a frame's word is a byte and an ack slot. -/
theorem decode_idle_frame (c : Config) (x : Byte) (k : Bit) :
    decode c .idle (bitsOfByte x ++ [k]) = .ok (.idleFrame x k) := by
  rw [decode_byte_frame, decodeFrame, byteOfBits_bitsOfByte]

theorem decode_idxPtr_frame (c : Config) (p : Byte) (k : Bit) :
    decode c .idxPtr (bitsOfByte p ++ [k]) = .ok (.idx p k) := by
  rw [decode_byte_frame, decodeFrame, byteOfBits_bitsOfByte]

theorem decode_write_frame (c : Config) (d : Byte) (k : Bit) :
    decode c .write (bitsOfByte d ++ [k]) = .ok (.wdata d k) := by
  rw [decode_byte_frame, decodeFrame, byteOfBits_bitsOfByte]

theorem decode_read_frame (c : Config) (r : Byte) (k : Bit) :
    decode c .read (bitsOfByte r ++ [k]) = .ok (if k then .rdataN r else .rdataA r) := by
  rw [decode_byte_frame, decodeFrame, byteOfBits_bitsOfByte]

/-- Settles O1: the words of host and bus events hold their fields as they stand; the other words go
through the bytes and addresses that their bits spell. -/
theorem decodeInvertsEncode : Obligations.DecodeInvertsEncode := by
  intro c st i hwf hst
  cases i with
  | envClk _ | envSda _ | rst _ => rfl
  | clkRise _ | clkFall _ | start | dataFallL | stop | dataRiseL => rfl
  | rreg k v => exact (decode_encode_rreg c st k v).trans (if_pos (of_decide_eq_true hwf))
  | addrR a k =>
    obtain rfl : st = .devAddr := eq_of_beq hst
    obtain rfl : a = c.devAddr := eq_of_beq hwf
    exact (decode_devAddr_frame c c.devAddr true k).trans (congrArg _ (decodeAddr_own c true k))
  | addrW a k =>
    obtain rfl : st = .devAddr := eq_of_beq hst
    obtain rfl : a = c.devAddr := eq_of_beq hwf
    exact (decode_devAddr_frame c c.devAddr false k).trans (congrArg _ (decodeAddr_own c false k))
  | addrNm b r k =>
    obtain rfl : st = .devAddr := eq_of_beq hst
    have hb : b ≠ c.devAddr := bne_iff_ne.1 hwf
    exact (decode_devAddr_frame c b r k).trans (congrArg _ (decodeAddr_other hb r k))
  | idx p k =>
    obtain rfl : st = .idxPtr := eq_of_beq hst
    exact decode_idxPtr_frame c p k
  | wdata d k =>
    obtain rfl : st = .write := eq_of_beq hst
    exact decode_write_frame c d k
  | rdataA r =>
    obtain rfl : st = .read := eq_of_beq hst
    exact decode_read_frame c r false
  | rdataN r =>
    obtain rfl : st = .read := eq_of_beq hst
    exact decode_read_frame c r true
  | idleFrame x k =>
    obtain rfl : st = .idle := eq_of_beq hst
    exact decode_idle_frame c x k

/-! ### Encoding what the decoder reads, one inversion per alphabet -/

/-- The instruction has this word as its spelling, and the decoder may read it there: what
`EncodeInvertsDecode` says of a decoded instruction. -/
structure SpelledBy (c : Config) (st : ProtoState) (w : Word) (i : Instr) : Prop where
  encode : encode i = w
  wellFormed : i.wellFormed c = true
  decodedIn : i.decodedIn st = true

theorem spelledBy_of_decodeHost (c : Config) (st : ProtoState) {a b v : Bit} {i : Instr}
    (h : decodeHost a b v = .ok i) : SpelledBy c st [a, b, v] i := by
  unfold decodeHost at h
  split at h <;> cases h <;> exact ⟨rfl, rfl, rfl⟩

theorem spelledBy_of_decodeBus (c : Config) (st : ProtoState) {l o n x : Bit} {i : Instr}
    (h : decodeBus l o n x = .ok i) : SpelledBy c st [l, o, n, x] i := by
  unfold decodeBus at h
  split at h <;> cases h <;> exact ⟨rfl, rfl, rfl⟩

/-- An address frame names the engine's own address or another one, and the direction bit keeps its
value. -/
theorem spelledBy_decodeAddr (c : Config) (a : Addr7) (dir k : Bit) :
    SpelledBy c .devAddr (bitsOfAddr a ++ [dir, k]) (decodeAddr c a dir k) := by
  by_cases ha : a = c.devAddr
  · subst ha
    rw [decodeAddr_own]
    cases dir <;> exact ⟨rfl, beq_self_eq_true _, rfl⟩
  · rw [decodeAddr_other ha]
    exact ⟨rfl, bne_iff_ne.2 ha, rfl⟩

/-- In every state but DEV_ADDR a frame's fields are its byte and its ack slot. -/
theorem spelledBy_decodeFrame (c : Config) (st : ProtoState) (b7 b6 b5 b4 b3 b2 b1 b0 k : Bit) :
    SpelledBy c st [b7, b6, b5, b4, b3, b2, b1, b0, k] (decodeFrame c st [b7, b6, b5, b4, b3, b2, b1, b0] k) := by
  have hbyte : bitsOfByte (byteOfBits [b7, b6, b5, b4, b3, b2, b1, b0]) ++ [k] =
      [b7, b6, b5, b4, b3, b2, b1, b0, k] := by
    rw [bitsOfByte_byteOfBits]; rfl
  cases st with
  | devAddr =>
    have haddr : bitsOfAddr (addrOfBits [b7, b6, b5, b4, b3, b2, b1]) ++ [b0, k] =
        [b7, b6, b5, b4, b3, b2, b1, b0, k] := by
      rw [bitsOfAddr_addrOfBits]; rfl
    exact haddr ▸ spelledBy_decodeAddr c (addrOfBits [b7, b6, b5, b4, b3, b2, b1]) b0 k
  | idle | idxPtr | write => exact ⟨hbyte, rfl, rfl⟩
  | read => cases k <;> exact ⟨hbyte, rfl, rfl⟩

/-- An 18-bit word that decodes begins with `11` and names a slot that is there. -/
theorem decodeLong_eq_ok {c : Config} {a b : Bit} {k v : Byte} {i : Instr} (h : decodeLong c a b k v = .ok i) :
    a = true ∧ b = true ∧ k.toNat < c.nr ∧ i = .rreg k v := by
  unfold decodeLong decodeRreg at h
  split at h
  · next hab =>
    obtain ⟨ha, hb⟩ := Bool.and_eq_true_iff.1 hab
    split at h
    · cases h; exact ⟨ha, hb, ‹_›, rfl⟩
    · cases h
  · cases h

/-- Settles O2: the four alphabets are told apart by their width. -/
theorem encodeInvertsDecode : Obligations.EncodeInvertsDecode := by
  intro c st w i h
  have hspell : SpelledBy c st w i := by
    unfold decode at h
    split at h
    · exact spelledBy_of_decodeHost c st h
    · exact spelledBy_of_decodeBus c st h
    · cases h; exact spelledBy_decodeFrame ..
    · obtain ⟨rfl, rfl, hk, rfl⟩ := decodeLong_eq_ok h
      refine ⟨?_, decide_eq_true hk, rfl⟩
      rw [encode, bitsOfByte_byteOfBits, bitsOfByte_byteOfBits]; rfl
    · cases h
  exact ⟨hspell.encode, hspell.wellFormed, hspell.decodedIn⟩

/-- Settles O3: each word is the encoding of the instruction that the spec's tables name. -/
theorem wordsOfTheSpecDecode : Obligations.WordsOfTheSpecDecode :=
  ⟨decodeInvertsEncode _ .idle (.envClk true) rfl rfl, decodeInvertsEncode _ .idle .start rfl rfl,
    decodeInvertsEncode _ .devAddr (.addrR 0x55#7 false) rfl rfl,
    decodeInvertsEncode _ .write (.wdata 0xA5#8 false) rfl rfl⟩

/-- Rule R94: no bus event has one level as its old and its new one. -/
theorem decodeBus_unchanged (l o x : Bit) : decodeBus l o o x = .error .noBusEvent := by
  cases l <;> cases o <;> rfl

end Sys2Proof

namespace Sys2Proof.Machine

/-! ### The step, one equation per branch -/

theorem step_badConfiguration {s : State} (h : s.cfg.wellFormed = false) : step s = .refused .badConfiguration := by
  simp [step, h]

theorem step_of_fetchDecode_ok {s : State} {w : Word} {rest : List Word} {i : Instr} (hc : s.cfg.wellFormed = true)
    (hin : s.input = w :: rest) (h : fetchDecode s w = .ok i) : step s = exec i { s with input := rest } := by
  simp [step, hc, hin, h]

theorem step_of_fetchDecode_error {s : State} {w : Word} {rest : List Word} {e : DecodeError}
    (hc : s.cfg.wellFormed = true) (hin : s.input = w :: rest) (h : fetchDecode s w = .error e) :
    step s = .refused (.notAnEvent e) := by
  simp [step, hc, hin, h]

/-- Settles O5: the decoder refuses the slot, and the step passes its refusal on. -/
theorem stepRefusesWhatTheSpecRefuses : Obligations.StepRefusesWhatTheSpecRefuses := by
  refine ⟨fun s k v rest hc hk hin => ?_, fun s => step_badConfiguration⟩
  have hdec : fetchDecode s (encode (.rreg k v)) = .error (.noReadSlot k.toNat) :=
    (decode_encode_rreg s.cfg (frameState s) k v).trans (if_neg (Nat.not_lt.2 hk))
  exact step_of_fetchDecode_error hc hin hdec

/-- Settles O6: the word is decoded in the protocol state after the opening edge. -/
theorem stepRunsDecodedInstruction : Obligations.StepRunsDecodedInstruction :=
  fun _ _ _ _ hc hin h => step_of_fetchDecode_ok hc hin h

/-! ### Events that make no edge (rules R94, R123) -/

/-- ENV_SDA that leaves the wire at its level is no DATA edge. -/
theorem driveSda_sameWire {s : State} {v : Bit} (ha : asserted s = false) (hw : sda { s with envSda := v } = sda s) :
    driveSda v s = { s with envSda := v } := by
  rw [driveSda_running v ha, ← hw]
  exact dataHandler_same { s with envSda := v }

/-- The wire is low while the engine pulls it low (rules R25, R120). -/
theorem sda_of_driven {s : State} (h : s.sdaRel = false) : sda s = false := by simp [sda, h]

/-- Settles O4: the decoder's bus table has no such row, and the wire stays low. -/
theorem unchangedLevelIsNoBusEvent : Obligations.UnchangedLevelIsNoBusEvent := by
  refine ⟨fun _ _ => decodeBus_unchanged, fun s ha hr => ?_⟩
  have hlow : sda s = false := sda_of_driven hr
  have hlow' : sda { s with envSda := true } = false := sda_of_driven hr
  exact ⟨hlow, congrArg Host.Outcome.next (driveSda_sameWire ha (hlow'.trans hlow.symm)), hlow'⟩

/-- RREG of the byte the register holds already changes nothing (rule R203). -/
theorem setRreg_same {s : State} {k : Nat} {v : Byte} (h : s.rreg[k]? = some v) : setRreg s k v = s := by
  obtain ⟨hk, rfl⟩ := List.getElem?_eq_some_iff.1 h
  rw [setRreg, List.set_getElem_self]

/-- Settles O9: a present value makes no edge on its line and no change in its register. -/
theorem presentValueChangesNothing : Obligations.PresentValueChangesNothing := by
  intro s ha
  refine ⟨congrArg Host.Outcome.next (driveClk_same ha), congrArg Host.Outcome.next (driveSda_sameWire ha rfl),
    congrArg Host.Outcome.next (driveRst_running s.rst ha), fun k v hk hv => ?_⟩
  calc exec (.rreg k v) s = .next (applyRreg k.toNat v s) := if_pos hk
    _ = .next (setRreg s k.toNat v) := by rw [applyRreg_running _ _ ha]
    _ = .next s := by rw [setRreg_same hv]

/-! ### Bus events that do not fit the lines (rule R92) -/

theorem not_clkEventFits {old d : Bit} {s : State} (h : s.clk = !old ∨ sda s ≠ d) : ¬clkEventFits old d s = true := by
  intro hfit
  obtain ⟨hclk, hsda⟩ : s.clk = old ∧ sda s = d := by simpa [clkEventFits] using hfit
  simp [hclk, hsda] at h

theorem not_dataEventFits {old c : Bit} {s : State} (h : sda s = !old ∨ s.clk = !c ∨ s.sdaRel = false) :
    ¬dataEventFits old c s = true := by
  intro hfit
  obtain ⟨hsda, hclk, hrel⟩ : sda s = old ∧ s.clk = c ∧ s.sdaRel = true := by
    simpa [dataEventFits, and_assoc] using hfit
  simp [hsda, hclk, hrel] at h

/-- The answer of every bus event's meaning where its word does not fit. -/
theorem next_of_misfit {fits : Bit} (s t : State) (h : ¬fits = true) :
    (.next (if fits then t else s) : Host.Outcome State Fault Refusal) = .next s :=
  congrArg Host.Outcome.next (if_neg h)

/-- Settles O16: each hypothesis contradicts one of the word's levels or the released drive. -/
theorem misfitBusEventChangesNothing : Obligations.MisfitBusEventChangesNothing := fun s =>
  ⟨fun _ h => next_of_misfit s _ (not_clkEventFits h), fun _ h => next_of_misfit s _ (not_clkEventFits h),
    fun h => next_of_misfit s _ (not_dataEventFits (h.imp_right .inl)),
    fun h => next_of_misfit s _ (not_dataEventFits (h.imp_right .inl)),
    fun h => next_of_misfit s _ (not_dataEventFits h), fun h => next_of_misfit s _ (not_dataEventFits h)⟩

/-! ### From power-up to the reset values (rules R295, R296) -/

/-- Reset forgets every edge before it but a falling one, which may store a byte that KEEP then keeps
(rules R46, R179). -/
theorem resetRegisters_react {s0 s : State} (hfall : ¬(s0.clk = true ∧ s.clk = false)) :
    resetRegisters (react s0 s) = resetRegisters s := by
  have hclk : resetRegisters (clkHandler s0.clk s) = resetRegisters s := by
    unfold clkHandler
    split
    · rfl
    · split
      · next hf => exact absurd (by simpa using hf) hfall
      · rfl
  cases ha : asserted s with
  | true => rw [react_asserted ha, resetRegisters_idem]
  | false =>
    rw [react_running ha]
    obtain hd | hd | hd := dataHandler_cases (sda s0) (clkHandler s0.clk s) <;> rw [hd] <;> exact hclk

/-- IDLE and RESET of rule R108, whose RST levels rule R290 names. -/
def bootEvents (c : Config) : List Instr := [.envClk true, .envSda true, .rst (activeLevel c), .rst (!activeLevel c)]

/-- The reset values on an idle bus, with the reset input at a level (rule R46, rule R296 item 3). -/
def resetOnIdleBus (r : Bit) (s : State) : State :=
  { resetRegisters s with clk := true, envSda := true, rst := r }

theorem asserted_resetOnIdleBus (s : State) : asserted (resetOnIdleBus (activeLevel s.cfg) s) = true :=
  asserted_of_activeLevel rfl

theorem not_asserted_of_inactiveLevel {s : State} (h : s.rst = !activeLevel s.cfg) : asserted s = false := by
  cases hl : s.cfg.rstActive <;> simp [asserted, h, activeLevel, hl]

/-- The event of rule R292 after IDLE: the two line events before it leave no trace. -/
theorem driveRst_active_of_idle (s : State) :
    driveRst (activeLevel s.cfg) (driveSda true (driveClk true s)) = resetOnIdleBus (activeLevel s.cfg) s := by
  have hcfg : (driveSda true (driveClk true s)).cfg = s.cfg := (react_cfg _ _).trans (react_cfg _ _)
  have hsda : resetRegisters (driveSda true (driveClk true s)) =
      { resetRegisters (driveClk true s) with envSda := true } := resetRegisters_react (by simp)
  have hclk : resetRegisters (driveClk true s) = { resetRegisters s with clk := true } := resetRegisters_react (by simp)
  calc driveRst (activeLevel s.cfg) (driveSda true (driveClk true s))
      = { resetRegisters (driveSda true (driveClk true s)) with rst := activeLevel s.cfg } := by
        rw [← hcfg]; exact driveRst_activeLevel _
    _ = resetOnIdleBus (activeLevel s.cfg) s := by rw [hsda, hclk]; rfl

theorem driveRst_inactive_of_reset (r : Bit) (s : State) :
    driveRst (!activeLevel s.cfg) (resetOnIdleBus r s) = resetOnIdleBus (!activeLevel s.cfg) s :=
  driveRst_running _ (not_asserted_of_inactiveLevel rfl)

theorem runItems_bootEvents (s : State) :
    runItems (bootEvents s.cfg) s = resetOnIdleBus (!activeLevel s.cfg) s := by
  show driveRst (!activeLevel s.cfg) (driveRst (activeLevel s.cfg) (driveSda true (driveClk true s))) = _
  rw [driveRst_active_of_idle, driveRst_inactive_of_reset]

theorem runMoments_bootEvents (s : State) : runMoments (bootEvents s.cfg) s =
    [⟨s, .envClk true, driveClk true s⟩,
      ⟨driveClk true s, .envSda true, driveSda true (driveClk true s)⟩,
      ⟨driveSda true (driveClk true s), .rst (activeLevel s.cfg), resetOnIdleBus (activeLevel s.cfg) s⟩,
      ⟨resetOnIdleBus (activeLevel s.cfg) s, .rst (!activeLevel s.cfg), resetOnIdleBus (!activeLevel s.cfg) s⟩] := by
  rw [← driveRst_inactive_of_reset (activeLevel s.cfg), ← driveRst_active_of_idle]
  rfl

/-- No moment of a run changes the configuration (rule R296 item 2). -/
theorem runMoments_cfg {is : List Instr} {s : State} {m : RunMoment} (h : m ∈ runMoments is s) :
    m.after.cfg = s.cfg := by
  induction is generalizing s with
  | nil => cases h
  | cons i is ih =>
    have hi : (applyInstr i s).cfg = s.cfg := runItems_cfg [i] s
    obtain rfl | h := List.mem_cons.1 h
    · exact hi
    · exact (ih h).trans hi

/-- Rule R296 item 5 asks only about falling edges. -/
theorem loadCovered_of_clk_high (c : BootClaim) (l : BootLog) {m : RunMoment} (h : m.after.clk = true) :
    loadCovered c l m = true := by
  simp [loadCovered, RunMoment.loadEdge, RunMoment.falls, h]

/-- Rule R296 items 3 and 5 hold along a run on which CLK stays high and reset ends on an idle bus. -/
theorem bootKept_of_clk_high (c : BootClaim) {ms : List RunMoment} (l : BootLog)
    (h : ∀ m ∈ ms, m.after.clk = true ∧ m.endsResetIdle = true) : bootKept c ms l = true := by
  induction ms generalizing l with
  | nil => rfl
  | cons m ms ih =>
    obtain ⟨hclk, hidle⟩ := h m (by simp)
    have hms : bootKept c ms (l.note m) = true := ih _ fun n hn => h n (by simp [hn])
    simp [loadCovered_of_clk_high c l hclk, hidle, hms]

/-- Rule R296 item 3 asks only about the event that ends reset. -/
theorem endsResetIdle_of_not_ended {m : RunMoment} (h : asserted m.before = true → asserted m.after = true) :
    m.endsResetIdle = true := by
  cases hb : asserted m.before
  · simp [RunMoment.endsResetIdle, hb]
  · simp [RunMoment.endsResetIdle, hb, h hb]

/-- Rule R296: the boot run is Booted for every claim whose write registers, if any, reset clears. -/
theorem booted_bootEvents (s : State) (w k : List Nat) (hw : s.cfg.wregReset = .clear ∨ w = []) :
    Booted ⟨false, w, k⟩ (bootEvents s.cfg) [] s = true := by
  refine (booted_iff _ _ _ _).2 ⟨?_, ?_, ?_, ?_, ?_⟩
  · intro i hi
    obtain rfl | rfl | rfl | rfl : i = .envClk true ∨ i = .envSda true ∨ i = .rst (activeLevel s.cfg) ∨
        i = .rst (!activeLevel s.cfg) := by simpa [bootEvents] using hi
    all_goals exact ⟨rfl, rfl⟩
  · simp [runMoments_bootEvents, asserted_resetOnIdleBus]
  · exact fun _ => runMoments_cfg
  · exact hw.imp_right fun (h : w = []) j (hj : j ∈ w) => absurd hj (h ▸ List.not_mem_nil)
  · rw [List.append_nil]
    refine bootKept_of_clk_high _ _ fun m hm => ?_
    obtain rfl | rfl | rfl | rfl := by simpa [runMoments_bootEvents] using hm
    · exact ⟨(react_inputs _ _).1, endsResetIdle_of_not_ended (asserted_driveClk true s).trans⟩
    · exact ⟨(react_inputs _ _).1.trans (react_inputs _ _).1,
        endsResetIdle_of_not_ended (asserted_driveSda true _).trans⟩
    · exact ⟨rfl, endsResetIdle_of_not_ended fun _ => asserted_resetOnIdleBus s⟩
    · exact ⟨rfl, by simp [RunMoment.endsResetIdle, resetOnIdleBus, sda]⟩

/-- Settles O38: the run is Booted, and a Booted run meets the invariant at its end (O57). -/
theorem bootReachesTheResetValues : Obligations.BootReachesTheResetValues := by
  intro s hpow
  refine ⟨runItems_bootEvents s, ?_, booted_bootEvents s⟩
  exact invariantHoldsOnceBooted ⟨false, [], []⟩ (bootEvents s.cfg) [] s hpow (booted_bootEvents s [] [] (.inr rfl))

end Sys2Proof.Machine

/-! # Proofs: bus conditions (40_bus_conditions.md)

The DATA edges and the two CLK edges as whole next states, and what they make of a START. -/

namespace Sys2Proof.Machine

/-! ### Bus events that fit the lines (rule R92) -/

theorem clkEventFits_iff (old d : Bit) (s : State) : clkEventFits old d s = true ↔ s.clk = old ∧ sda s = d := by
  simp [clkEventFits]

theorem dataEventFits_iff (old c : Bit) (s : State) :
    dataEventFits old c s = true ↔ sda s = old ∧ s.clk = c ∧ s.sdaRel = true := by
  simp [dataEventFits, and_assoc]

/-- The answer of every bus event's meaning where its word fits. -/
theorem next_of_fit {fits : Bit} (s t : State) (h : fits = true) :
    (.next (if fits then t else s) : Host.Outcome State Fault Refusal) = .next t :=
  congrArg Host.Outcome.next (if_pos h)

/-- The wire is high only while everybody releases it (rules R25, R120). -/
theorem sda_high_iff (s : State) : sda s = true ↔ s.envSda = true ∧ s.sdaRel = true := by simp [sda]

theorem sda_low_of_envSda {s : State} (h : s.envSda = false) : sda s = false := by simp [sda, h]

/-- A high wire can fall at CLK's level. -/
theorem dataEventFits_fall {s : State} {c : Bit} (hc : s.clk = c) (hw : sda s = true) :
    dataEventFits true c s = true :=
  (dataEventFits_iff _ _ _).2 ⟨hw, hc, ((sda_high_iff s).1 hw).2⟩

/-- A wire that the environment alone holds low can rise at CLK's level. -/
theorem dataEventFits_rise {s : State} {c : Bit} (hc : s.clk = c) (he : s.envSda = false) (hrel : s.sdaRel = true) :
    dataEventFits false c s = true :=
  (dataEventFits_iff _ _ _).2 ⟨sda_low_of_envSda he, hc, hrel⟩

/-! ### The DATA edges the environment makes (rules R133 to R136) -/

/-- Rules R133 and R134: whatever CLK's level `c` is, the START detector takes it, unless held. -/
theorem driveSda_fall {s : State} {c : Bit} (ha : asserted s = false) (hc : s.clk = c) (hw : sda s = true) :
    driveSda false s = { s with envSda := false, startDet := if s.startRst = false then c else s.startDet } := by
  have hlow : sda { s with envSda := false } = false := sda_low_of_envSda rfl
  have hedge : dataHandler (sda s) { s with envSda := false } = dataFall { s with envSda := false } := by
    simp [dataHandler, hw, hlow]
  rw [driveSda_running false ha, hedge]
  cases s.startRst <;> simp [dataFall, hc]

/-- Rules R135 and R136: the same for the STOP detector, where the engine does not hold DATA. -/
theorem driveSda_rise {s : State} {c : Bit} (ha : asserted s = false) (hc : s.clk = c) (he : s.envSda = false)
    (hrel : s.sdaRel = true) :
    driveSda true s = { s with envSda := true, stopDet := if s.stopRst = false then c else s.stopDet } := by
  have hlow : sda s = false := sda_low_of_envSda he
  have hhigh : sda { s with envSda := true } = true := (sda_high_iff _).2 ⟨rfl, hrel⟩
  have hedge : dataHandler (sda s) { s with envSda := true } = dataRise { s with envSda := true } := by
    simp [dataHandler, hlow, hhigh]
  rw [driveSda_running true ha, hedge]
  cases s.stopRst <;> simp [dataRise, hc]

/-- Settles O10: DATA falls with CLK high. -/
theorem startSetsTheDetector : Obligations.StartSetsTheDetector := by
  refine ⟨fun _ _ => rfl, fun s ha hc hw => ⟨driveSda false s, ?_, rfl, driveSda_fall ha hc hw⟩⟩
  exact next_of_fit s _ (dataEventFits_fall hc hw)

/-- Settles O11: DATA falls with CLK low. -/
theorem dataFallLowClearsTheDetector : Obligations.DataFallLowClearsTheDetector := by
  refine ⟨fun _ _ => rfl, fun s ha hc hw => ⟨driveSda false s, ?_, rfl, driveSda_fall ha hc hw⟩⟩
  exact next_of_fit s _ (dataEventFits_fall hc hw)

/-- Settles O12: DATA rises with CLK high; the held-back case is the one O4 settles. -/
theorem stopSetsTheDetector : Obligations.StopSetsTheDetector := by
  refine ⟨fun _ _ => rfl, fun s ha hc he hrel => ⟨driveSda true s, ?_, rfl, driveSda_rise ha hc he hrel⟩,
    fun s ha hrel => (unchangedLevelIsNoBusEvent.2 s ha hrel).2⟩
  exact next_of_fit s _ (dataEventFits_rise hc he hrel)

/-- Settles O13: DATA rises with CLK low. -/
theorem dataRiseLowClearsTheDetector : Obligations.DataRiseLowClearsTheDetector := by
  refine ⟨fun _ _ => rfl, fun s ha hc he hrel => ⟨driveSda true s, ?_, rfl, driveSda_rise ha hc he hrel⟩⟩
  exact next_of_fit s _ (dataEventFits_rise hc he hrel)

/-! ### The CLK edges (rules R137, R140) -/

/-- Rules R129 and R132: a detector that is 1 is cleared, and one that is 0 stays. -/
theorem cleared_detector (b : Bit) : (if b = true then false else b) = false := by cases b <;> rfl

/-- The rising edge with its marker and its shift written out (rules R137, R152). -/
theorem risingEdge_eq (d : Bit) (s : State) : risingEdge d s = { s with
    startRst := s.startDet
    stopRst := s.stopDet
    inSr := if s.cnt = 8#4 ∧ s.startDet = false then s.inSr else s.inSr <<< 1 ||| (if d = true then 1#8 else 0#8)
    mack := if s.cnt = 8#4 ∧ s.startDet = false then !d else s.mack
    startDet := if s.startDet = true then false else s.startDet
    stopDet := if s.stopDet = true then false else s.stopDet } := by
  simp only [risingEdge, ackMark_iff, shl_eq, cleared_detector]

/-- Settles O14: the rising edge is made with CLK already high, and it reads no CLK. -/
theorem risingEdgeResult : Obligations.RisingEdgeResult := by
  refine ⟨fun _ _ _ => rfl, fun s ha hc => ⟨driveClk true s, rfl, ?_, ?_⟩⟩
  · exact next_of_fit s _ ((clkEventFits_iff _ _ _).2 ⟨hc, rfl⟩)
  · exact (driveClk_rise ha hc).trans (risingEdge_eq (sda s) { s with clk := true })

/-- Settles O15: the fields of `AfterFall` that a falling edge does not evaluate. -/
theorem fallingEdgeLeavesTheRest : Obligations.FallingEdgeLeavesTheRest := by
  intro s ha hc
  have hfall : AfterFall s (driveClk false s) := driveClk_fall_spec ha hc
  refine ⟨driveClk false s, rfl, next_of_fit s _ ((clkEventFits_iff _ _ _).2 ⟨hc, rfl⟩), hfall.clk, hfall.envSda,
    hfall.rst, hfall.rreg, hfall.cfg, hfall.startRst, hfall.stopRst, hfall.mack, hfall.input, ?_, ?_⟩
  · simpa [and_assoc] using hfall.startDet
  · simpa [and_assoc] using hfall.stopDet

/-! ### The life of a START (rules R124, R129, R138, R139) -/

@[simp] theorem driveClk_clk (v : Bit) (s : State) : (driveClk v s).clk = v := (react_inputs _ _).1

@[simp] theorem driveSda_clk (v : Bit) (s : State) : (driveSda v s).clk = s.clk := (react_inputs _ _).1

@[simp] theorem driveSda_envSda (v : Bit) (s : State) : (driveSda v s).envSda = v := (react_inputs _ _).2.1

/-- No DATA edge moves a resetter (rules R128, R131). -/
theorem driveSda_startRst {s : State} (v : Bit) (ha : asserted s = false) : (driveSda v s).startRst = s.startRst := by
  obtain ⟨a, b, h⟩ := driveSda_spec v ha
  rw [h]

/-- DATA may move freely while CLK is low or the detector is held: that is no START (rules R129, R134). -/
theorem driveSda_no_start {s : State} (v : Bit) (ha : asserted s = false) (hd : s.startDet = false)
    (hblind : s.startRst = true ∨ s.clk = false) : (driveSda v s).startDet = false := by
  rw [driveSda_running v ha]
  obtain h | h | h := dataHandler_cases (sda s) { s with envSda := v } <;> rw [h]
  · exact hd
  · obtain hr | hc := hblind
    · simp [hr, hd]
    · simp [hc, hd]
  · exact hd

/-- A falling edge never sets the START detector (rule R125). -/
theorem driveClk_fall_no_start {s : State} (ha : asserted s = false) (hc : s.clk = true) (hd : s.startDet = false) :
    (driveClk false s).startDet = false := by
  rw [(driveClk_fall_spec ha hc).startDet, hd, ite_self]

/-- While the environment holds DATA low, the falling edge after a START neither clears the detector
nor leaves the engine in another state than DEV_ADDR (rules R138, R170). -/
theorem driveClk_fall_start {s : State} (ha : asserted s = false) (hc : s.clk = true) (hw : sda s = false)
    (hd : s.startDet = true) : (driveClk false s).startDet = true ∧ (driveClk false s).st = .devAddr := by
  have hfall : AfterFall s (driveClk false s) := driveClk_fall_spec ha hc
  refine ⟨?_, ?_⟩
  · simp [hfall.startDet, hw, hd]
  · simp [hfall.st, nextSt, hd]

/-- The rising edge hands the detector's value to its resetter and leaves it cleared (rules R128, R129). -/
theorem driveClk_rise_start {s : State} (ha : asserted s = false) (hc : s.clk = false) :
    (driveClk true s).startRst = s.startDet ∧ (driveClk true s).startDet = false := by
  rw [driveClk_rise ha hc]
  exact ⟨rfl, rfl⟩

/-- On an idle bus with the detector free, ENV_SDA(0) is a START, and the falling edge after it brings
DEV_ADDR (rules R133, R138). -/
theorem start_then_fall {s : State} (ha : asserted s = false) (hc : s.clk = true) (hw : sda s = true)
    (hr : s.startRst = false) :
    (driveSda false s).startDet = true ∧ (driveClk false (driveSda false s)).startDet = true ∧
      (driveClk false (driveSda false s)).st = .devAddr := by
  have hd : (driveSda false s).startDet = true := by simp [driveSda_fall ha hc hw, hr]
  refine ⟨hd, driveClk_fall_start ?_ ?_ ?_ hd⟩
  · rw [asserted_driveSda, ha]
  · rw [driveSda_clk, hc]
  · exact sda_low_of_envSda (driveSda_envSda false s)

/-- Settles O17, edge by edge: each state hands the next one its detector and its resetter. -/
theorem startIsReportedOnce : Obligations.StartIsReportedOnce := by
  intro s ha hc hw hr s1 s2 s3 s4
  have hstart : applyInstr .start s = driveSda false s := if_pos (dataEventFits_fall hc hw)
  have hs1 : s1 = driveClk false (driveSda false s) := congrArg (driveClk false) hstart
  obtain ⟨hd0, hd1, -⟩ := start_then_fall ha hc hw hr
  rw [← hs1] at hd1
  have ha1 : asserted s1 = false := by rw [hs1, asserted_driveClk, asserted_driveSda, ha]
  have hc1 : s1.clk = false := driveClk_clk false _
  obtain ⟨hr2, hd2⟩ : s2.startRst = s1.startDet ∧ s2.startDet = false := driveClk_rise_start ha1 hc1
  rw [hd1] at hr2
  have ha2 : asserted s2 = false := (asserted_driveClk true s1).trans ha1
  have hc2 : s2.clk = true := driveClk_clk true s1
  have hd3 : s3.startDet = false := by
    have ha' : asserted (driveSda true s2) = false := (asserted_driveSda true s2).trans ha2
    have hr' : (driveSda true s2).startRst = true := (driveSda_startRst true ha2).trans hr2
    exact driveSda_no_start false ha' (driveSda_no_start true ha2 hd2 (.inl hr2)) (.inl hr')
  have ha3 : asserted s3 = false :=
    (asserted_driveSda false _).trans ((asserted_driveSda true s2).trans ha2)
  have hc3 : s3.clk = true := (driveSda_clk false _).trans ((driveSda_clk true s2).trans hc2)
  have hr4 : s4.startRst = false := by
    have ha' : asserted (driveClk false s3) = false := (asserted_driveClk false s3).trans ha3
    exact (driveClk_rise_start ha' (driveClk_clk false s3)).1.trans (driveClk_fall_no_start ha3 hc3 hd3)
  exact ⟨(congrArg State.startDet hstart).trans hd0, hd1, hd2, hr2, hd3, hr4⟩

/-- Settles O18: in the second order CLK is low before DATA moves, which is a data bit. -/
theorem orderOfLineChangesMatters : Obligations.OrderOfLineChangesMatters := by
  intro s ha hc hw hr hd
  obtain ⟨-, hpending, hst⟩ := start_then_fall ha hc hw hr
  refine ⟨hpending, hst, ?_⟩
  exact driveSda_no_start false ((asserted_driveClk false s).trans ha) (driveClk_fall_no_start ha hc hd)
    (.inr (driveClk_clk false s))

/-! ### What moves the engine's drive (rules R122, R204) -/

/-- A host event writes its own input and processes it; only ENV_CLK writes CLK (rules R91, R123). -/
theorem exec_hostEvent {i : Instr} {s t : State} (hi : isHostEvent i = true) (h : exec i s = .next t) :
    ∃ c e r l, t = react s { s with clk := c, envSda := e, rst := r, rreg := l } ∧ (i = .envClk c ∨ c = s.clk) := by
  cases i with
  | envClk v => injection h with h; exact ⟨v, _, _, _, h.symm, .inl rfl⟩
  | envSda v => injection h with h; exact ⟨_, v, _, _, h.symm, .inr rfl⟩
  | rst v => injection h with h; exact ⟨_, _, v, _, h.symm, .inr rfl⟩
  | rreg k v =>
    simp only [exec, execRreg] at h
    split at h
    · injection h with h; exact ⟨_, _, _, s.rreg.set k.toNat v, h.symm, .inr rfl⟩
    · cases h
  | clkRise _ | clkFall _ | start | dataFallL | stop | dataRiseL => cases hi
  | addrR _ _ | addrW _ _ | addrNm _ _ _ | idx _ _ | wdata _ _ => cases hi
  | rdataA _ | rdataN _ | idleFrame _ _ => cases hi

/-- Only the falling edge evaluates the output control (rule R204). -/
theorem clkHandler_sdaRel {c : Bit} {s : State} (hfall : ¬(c = true ∧ s.clk = false)) :
    (clkHandler c s).sdaRel = s.sdaRel := by
  unfold clkHandler
  split
  · rfl
  · split
    · next hf => exact absurd (by simpa using hf) hfall
    · rfl

@[simp] theorem dataHandler_sdaRel (d : Bit) (s : State) : (dataHandler d s).sdaRel = s.sdaRel := by
  obtain h | h | h := dataHandler_cases d s <;> rw [h] <;> rfl

/-- Settles O31: reset releases the drive; without it, an event that is no falling edge keeps it. -/
theorem onlyFallingEdgesMoveTheDrive : Obligations.OnlyFallingEdgesMoveTheDrive := by
  intro i s t hi h hmoved
  obtain ⟨c, e, r, l, rfl, hclk⟩ := exec_hostEvent hi h
  cases ha : asserted { s with clk := c, envSda := e, rst := r, rreg := l } with
  | true =>
    right
    rw [react_asserted ha, asserted_resetRegisters]
    exact ⟨ha, rfl⟩
  | false =>
    left
    by_cases hfall : s.clk = true ∧ c = false
    · obtain ⟨hs, rfl⟩ := hfall
      refine ⟨hclk.resolve_right fun hsame => ?_, hs, (react_inputs _ _).1⟩
      simp [hs] at hsame
    · refine absurd ?_ hmoved
      rw [react_running ha, dataHandler_sdaRel]
      exact clkHandler_sdaRel hfall

end Sys2Proof.Machine

/-! # Proofs: framing (41_framing.md)

The marker flags, and the bit counter, the input shift register and the captured acknowledge at each
kind of edge. -/

namespace Sys2Proof.Machine

/-! ### The flags (rules R151, R154, R155) -/

theorem readerMark_iff (s : State) : readerMark s = true ↔ s.cnt = 6#4 ∧ s.startDet = false := by
  simp [readerMark]

/-- The seven bits above the direction bit are the byte's half (rule R154). -/
theorem addrMatch_iff (s : State) : addrMatch s = true ↔ s.inSr.toNat / 2 = s.cfg.devAddr.toNat := by
  have hhalf : (s.inSr.extractLsb' 1 7).toNat = s.inSr.toNat / 2 := by
    rw [BitVec.extractLsb'_toNat, Nat.shiftRight_one]
    exact Nat.mod_eq_of_lt (by omega)
  rw [addrMatch, beq_iff_eq, ← BitVec.toNat_inj, hhalf]

theorem dirFlag_iff (s : State) : dirFlag s = true ↔ s.inSr.toNat % 2 = 1 := by
  simp [dirFlag, BitVec.getLsbD, Nat.testBit_zero]

/-- Settles O19, one equivalence per flag. -/
theorem markersAndAddressMatch : Obligations.MarkersAndAddressMatch := fun s =>
  ⟨readerMark_iff s, lsbMark_iff s, ackMark_iff s, addrMatch_iff s, dirFlag_iff s⟩

/-! ### The registers (rules R150, R153, R156) -/

/-- Rule R150 with the ack marker written out: it is masked by the START that clears the counter too. -/
theorem nextCnt_eq (s : State) :
    nextCnt s = if s.cnt = 8#4 ∨ s.startDet = true then 0#4 else s.cnt + 1#4 := by
  cases hd : s.startDet <;> simp [nextCnt, ackMark, hd]

/-- ENV_SDA reaches the detectors only (rules R127, R130, R142). -/
theorem driveSda_cnt {s : State} (v : Bit) (ha : asserted s = false) : (driveSda v s).cnt = s.cnt := by
  obtain ⟨a, b, h⟩ := driveSda_spec v ha
  rw [h]

theorem driveSda_mack {s : State} (v : Bit) (ha : asserted s = false) : (driveSda v s).mack = s.mack := by
  obtain ⟨a, b, h⟩ := driveSda_spec v ha
  rw [h]

/-- An RST event that asserts reset leaves the reset values (rules R291, R292). -/
theorem driveRst_asserted {s : State} {v : Bit} (h : asserted (driveRst v s) = true) :
    driveRst v s = resetRegisters { s with rst := v } := by
  rw [driveRst, asserted_react] at h
  exact react_asserted h

/-- Settles O20: the falling edge evaluates the counter, the other edges keep it, reset clears it. -/
theorem bitCounterCounts : Obligations.BitCounterCounts := by
  refine fun s ha => ⟨fun hc => ⟨_, rfl, ?_⟩, fun hc => ⟨_, rfl, ?_⟩, fun v => ⟨_, rfl, driveSda_cnt v ha⟩, ?_⟩
  · exact (driveClk_fall_spec ha hc).cnt.trans (nextCnt_eq s)
  · rw [driveClk_rise ha hc, risingEdge_cnt]
  · intro v t h hreset
    injection h with h
    subst h
    rw [driveRst_asserted hreset, resetRegisters_cnt]

/-- Settles O21: the falling edge evaluates the register under rule R153. -/
theorem inputShiftRegisterAtFallingEdge : Obligations.InputShiftRegisterAtFallingEdge :=
  fun _ ha hc => ⟨_, rfl, (driveClk_fall_spec ha hc).inSr⟩

/-- Settles O22: only the rising edge samples the acknowledge, at the ack marker. -/
theorem masterAckCapture : Obligations.MasterAckCapture := by
  refine fun s ha => ⟨fun hc => ⟨_, rfl, ?_⟩, fun hc => ⟨_, rfl, (driveClk_fall_spec ha hc).mack⟩,
    fun v => ⟨_, rfl, driveSda_mack v ha⟩⟩
  rw [driveClk_rise ha hc, risingEdge_eq]

end Sys2Proof.Machine

/-! # Proofs: protocol state, index pointer, write registers (42_protocol_fsm.md)

The next-state functions of the three registers with their conditions written out, and the write
registers over every host event. -/

namespace Sys2Proof.Machine

/-- The reset clause of every register: an RST event that asserts reset leaves the reset values. -/
theorem exec_rst_asserted {s t : State} {v : Bit} (h : exec (.rst v) s = .next t) (ha : asserted t = true) :
    t = resetRegisters { s with rst := v } := by
  injection h with h
  subst h
  exact driveRst_asserted ha

/-! ### The protocol state (rules R170, R171) -/

/-- Rule R154 as an equation of the seven bits, the spelling the other rules use. -/
theorem addrMatch_iff_extract (s : State) : addrMatch s = true ↔ s.inSr.extractLsb' 1 7 = s.cfg.devAddr := by
  simp [addrMatch]

/-- Rule R170: below a START the ack marker is the counter at 8. -/
theorem nextSt_eq (s : State) : nextSt s =
    if s.startDet = true then .devAddr
    else if s.stopDet = true then .idle
    else if s.cnt = 8#4 then transition s.st (addrMatch s) (dirFlag s) s.mack
    else s.st := by
  cases hd : s.startDet <;> simp [nextSt, ackMark, hd]

/-- Settles O23: R170's order of priority, then R171's table row by row. -/
theorem protocolStateTable : Obligations.ProtocolStateTable := by
  refine ⟨fun s t v h ha => exec_rst_asserted h ha ▸ rfl, fun s ha hc => ⟨_, rfl, ?_⟩⟩
  rw [(driveClk_fall_spec ha hc).st, nextSt_eq]
  congr 3
  cases s.st with
  | devAddr => exact if_congr (addrMatch_iff_extract s) rfl rfl
  | idle | read | idxPtr | write => rfl

/-! ### The index pointer (rules R175, R176) -/

/-- Rule R176 under each value of `P_IDX_INC`. -/
theorem ptrInc_iff (s : State) : ptrInc s = true ↔
    (s.cfg.idxInc = .transfer ∧ (readAddressed s = true ∨ s.st = .read ∨ s.st = .write)) ∨
      (s.cfg.idxInc = .allButIdx ∧ s.st ≠ .idxPtr) := by
  cases h : s.cfg.idxInc <;> simp [ptrInc, h, or_assoc]

/-- Rule R175 with the ack marker taken out: the index load and the increment both need it. -/
theorem nextPtr_eq (s : State) : nextPtr s =
    if s.stopDet = true then 0x00#8
    else if ackMark s = true then
      if s.st = .idxPtr then s.inSr else if ptrInc s = true then s.ptr + 1#8 else s.ptr
    else s.ptr := by
  cases hack : ackMark s <;> simp [nextPtr, hack]

/-- Settles O24: R175's order, and R176 where the state is not IDX_PTR. -/
theorem indexPointerNext : Obligations.IndexPointerNext := by
  refine ⟨fun s t v h ha => exec_rst_asserted h ha ▸ rfl, fun s ha hc => ⟨_, rfl, ?_⟩⟩
  rw [(driveClk_fall_spec ha hc).ptr, nextPtr_eq]
  simp only [ackMark_iff]
  congr 2
  by_cases hidx : s.st = .idxPtr
  · simp only [if_pos hidx]
  · simp only [ptrInc_iff, readAddressed_iff, ne_eq, hidx, not_false_eq_true, and_true]

/-! ### The write registers and their pulses (rules R178 to R181) -/

/-- Rules R179 and R181: the strobe stores in the mapped slot, if it is there, and in no other. -/
theorem nextWreg_getElem? (s : State) (j : Nat) : (nextWreg s)[j]? =
    if writeStrobe s = true ∧ writeSlot s = some j ∧ j < s.wreg.length then some s.inSr else s.wreg[j]? := by
  unfold nextWreg
  cases hw : writeStrobe s with
  | false => simp
  | true =>
    cases hslot : writeSlot s with
    | none => simp
    | some k =>
      change (wwrite s.wreg k s.inSr)[j]? = _
      by_cases hkj : k = j
      · subst hkj
        by_cases hk : k < s.wreg.length
        · rw [wwrite_same s.inSr hk, if_pos ⟨rfl, rfl, hk⟩]
        · simp [wwrite, hk]
      · simp [wwrite_other, hkj]

/-- A pulse vector in the vocabulary of the statements: 1 at its slot if the condition holds. -/
theorem pulsesAt_pulseVector (n : Nat) (c : Bit) (slot : Option Nat) :
    pulsesAt (pulseVector n c slot) n (if c = true then slot else none) := by
  refine ⟨pulseVector_length n c slot, fun j hj => ?_⟩
  rw [pulseVector_at n c slot hj]
  cases c <;> simp

/-- Settles O25: in the canonical form every slot below P_NW is there to be stored in. -/
theorem writeStrobeStores : Obligations.WriteStrobeStores := by
  intro s ha hc hwf
  have hfall : AfterFall s (driveClk false s) := driveClk_fall_spec ha hc
  obtain ⟨hlen, -, -, -⟩ := (memory_wf_iff s).1 hwf
  have hstrobe : writeStrobe s = true ↔ (s.cnt = 8#4 ∧ s.startDet = false) ∧ s.st = .write := by
    rw [writeStrobe_iff, ackMark_iff]
  refine ⟨_, rfl, ?_, fun j hj => ?_, ?_⟩
  · rw [hfall.wreg, nextWreg_length]
  · rw [hfall.wreg, nextWreg_getElem?]
    simp only [hstrobe, hlen, hj, and_true, and_assoc, writeSlot]
  · rw [hfall.update, nextUpdate]
    simpa only [hstrobe, writeSlot] using pulsesAt_pulseVector s.cfg.nw (writeStrobe s) (writeSlot s)

/-! ### What changes a write register (rule R182) -/

/-- With reset inactive, a field that the rising edge and the DATA edges keep changes at a falling edge
only. -/
theorem react_keeps_of_no_fall {α : Type} {f : State → α} (hrise : ∀ d s, f (risingEdge d s) = f s)
    (hdataFall : ∀ s, f (dataFall s) = f s) (hdataRise : ∀ s, f (dataRise s) = f s) {s0 s : State}
    (ha : asserted s = false) (hfall : ¬(s0.clk = true ∧ s.clk = false)) : f (react s0 s) = f s := by
  have hclk : f (clkHandler s0.clk s) = f s := by
    unfold clkHandler
    split
    · exact hrise _ _
    · split
      · next hf => exact absurd (by simpa using hf) hfall
      · rfl
  rw [react_running ha, ← hclk]
  obtain hd | hd | hd := dataHandler_cases (sda s0) (clkHandler s0.clk s) <;> rw [hd]
  · exact hdataFall _
  · exact hdataRise _

/-- Settles O26: reset moves the register under CLEAR only; without reset only a falling edge does, by
its strobe. -/
theorem writeRegistersChangeOnlyByStrobe : Obligations.WriteRegistersChangeOnlyByStrobe := by
  intro i s t j hi h hmoved
  obtain ⟨c, e, r, l, ht, hclk⟩ := exec_hostEvent hi h
  cases ha : asserted t with
  | true =>
    refine .inr ⟨rfl, ?_⟩
    rw [ht, asserted_react] at ha
    rw [ht, react_asserted ha] at hmoved
    cases hk : s.cfg.wregReset with
    | keep => exact absurd (by simp [wregUnderReset, hk]) hmoved
    | clear => rfl
  | false =>
    left
    have hfall : s.clk = true ∧ c = false := by
      by_contra hno
      rw [ht, asserted_react] at ha
      refine hmoved ?_
      rw [ht, react_keeps_of_no_fall (f := State.wreg) (fun _ _ => rfl) (fun _ => rfl) (fun _ => rfl) ha hno]
    obtain ⟨hc, rfl⟩ := hfall
    obtain rfl : i = .envClk false := hclk.resolve_right (by simp [hc])
    injection h with h
    have hwreg : t.wreg = nextWreg s := by
      rw [← h, asserted_driveClk] at ha
      rw [← h]
      exact (driveClk_fall_spec ha hc).wreg
    rw [hwreg, nextWreg_getElem?] at hmoved ⊢
    split at hmoved
    · next hstored =>
      obtain ⟨hstrobe, hslot, hthere⟩ := hstored
      obtain ⟨hack, hst⟩ := (writeStrobe_iff s).1 hstrobe
      obtain ⟨hcnt, hdet⟩ := (ackMark_iff s).1 hack
      exact ⟨rfl, hc, hcnt, hdet, hst, hslot, if_pos ⟨hstrobe, hslot, hthere⟩⟩
    · exact absurd rfl hmoved

end Sys2Proof.Machine

/-! # Proofs: read path and output (43_read_and_output.md)

The output shift register and why it is empty at every lsb marker; the read registers the application
writes; the output control, and the slots in which it pulls DATA low. -/

namespace Sys2Proof.Machine

/-! ### The output shift register and the capture pulses (rules R200 to R202) -/

theorem nextOut_of_loads {s : State} {k : Nat} (h : loads s = true) (hslot : readSlot s = some k) :
    nextOut s = rread s k := by
  simp [nextOut, h, hslot]

theorem nextOut_of_not_loads {s : State} (h : loads s = false) :
    nextOut s = if s.stopDet = true then 0x00#8 else s.outSr <<< 1 := by
  simp [nextOut, h, shl_false]

theorem not_loads_of_not_lsbMark {s : State} (h : lsbMark s = false) : loads s = false := by
  simp [loads, h]

/-- The slot loaded from, if any (rule R201): that it is mapped need not be asked beside its name. -/
theorem loadedSlot_eq (s : State) :
    (if loads s = true then readSlot s else none) =
      if lsbMark s = true ∧ loadGate s = true then readSlot s else none := by
  cases hslot : readSlot s <;> simp [loads_iff, hslot]

/-! ### The output shift register is empty at every lsb marker (rule R211) -/

theorem outSrDrained_iff (s : State) : outSrDrained s = true ↔
    s.cnt ≤ 8#4 ∧ (s.cnt = 8#4 ∨ s.outSr <<< (7 - s.cnt.toNat) = 0x00#8) := by
  simp [outSrDrained]

/-- One more bit shifted out: a register whose low `8 - m` bits are 0 has one more such bit after an
edge that does not load. -/
theorem nextOut_shiftLeft {s : State} (hload : loads s = false) (m : Nat) (h : s.outSr <<< (m + 1) = 0x00#8) :
    nextOut s <<< m = 0x00#8 := by
  rw [nextOut_of_not_loads hload]
  split
  · exact BitVec.zero_shiftLeft m
  · rw [← BitVec.shiftLeft_add, Nat.add_comm, h]

/-- A falling edge shifts out the bit that its new position asks for, and loads only at the lsb marker,
after which nothing is asked. -/
theorem outSrDrained_fallingEdge {s : State} (h : outSrDrained s = true) : outSrDrained (fallingEdge s) = true := by
  obtain ⟨hle, hout⟩ := (outSrDrained_iff s).1 h
  refine (outSrDrained_iff _).2 ⟨nextCnt_le hle, ?_⟩
  rw [fallingEdge_cnt, fallingEdge_outSr, nextCnt_eq]
  by_cases hwrap : s.cnt = 8#4 ∨ s.startDet = true
  · have hload : loads s = false := by
      obtain h8 | hd := hwrap
      · exact not_loads_of_not_lsbMark (by simp [lsbMark, h8])
      · exact not_loads_of_not_lsbMark (by simp [lsbMark, hd])
    right
    rw [if_pos hwrap]
    exact nextOut_shiftLeft hload 7 (BitVec.shiftLeft_eq_zero (Nat.le_refl 8))
  · rw [if_neg hwrap]
    obtain ⟨h8, hd⟩ := not_or.1 hwrap
    by_cases h7 : s.cnt = 7#4
    · left
      rw [h7]
      rfl
    · right
      have hload : loads s = false := not_loads_of_not_lsbMark (by simp [lsbMark, h7])
      have hpos : 7 - s.cnt.toNat = 7 - (s.cnt + 1#4).toNat + 1 := by bv_omega
      exact nextOut_shiftLeft hload _ (hpos ▸ hout.resolve_left h8)

theorem outSrDrained_edgeInvariant : EdgeInvariant (fun s => outSrDrained s = true) where
  inputs _ _ _ _ _ h := h
  reset _ _ := rfl
  fall _ h := outSrDrained_fallingEdge h
  rise _ _ h := h
  dataFall _ h := h
  dataRise _ h := h

/-- Settles O41: every host event keeps the register drained, so a step does; and position 7 asks for
the whole register. -/
theorem stepKeepsOutSrDrained : Obligations.StepKeepsOutSrDrained := by
  refine ⟨fun s t hs h => ?_, fun s hs hlsb => ?_⟩
  · exact step_keeps (P := fun u => outSrDrained u = true) (fun _ _ hu => hu)
      (fun _ _ => outSrDrained_edgeInvariant.event) h hs
  · obtain ⟨-, hout⟩ := (outSrDrained_iff s).1 hs
    obtain ⟨h7, -⟩ := (lsbMark_iff s).1 hlsb
    simpa [h7] using hout

/-- Settles O28: R200's order, at the slot that R201's load names. -/
theorem outputShiftRegisterNext : Obligations.OutputShiftRegisterNext := by
  refine ⟨fun s t v h ha => exec_rst_asserted h ha ▸ rfl, ?_⟩
  intro s ha hc gate slot
  have hfall : AfterFall s (driveClk false s) := driveClk_fall_spec ha hc
  have hgate : loadGate s = true ↔ gate := by
    rw [loadGate_iff, readAddressed_iff, or_comm (b := s.st = .read)]
  have hedge : (lsbMark s = true ∧ loadGate s = true) ↔ s.cnt = 7#4 ∧ s.startDet = false ∧ gate := by
    rw [lsbMark_iff, hgate, and_assoc]
  have hslot : slot = if loads s = true then readSlot s else none :=
    ((loadedSlot_eq s).trans (if_congr hedge rfl rfl)).symm
  refine ⟨_, rfl, fun k hk => ?_, fun hnone => ?_, ?_⟩
  · rw [hslot] at hk
    split at hk
    · next hload => exact hfall.outSr.trans (nextOut_of_loads hload hk)
    · cases hk
  · have hload : loads s = false := by
      by_contra hload
      rw [Bool.not_eq_false] at hload
      obtain ⟨-, hsome, -⟩ := (loads_iff s).1 hload
      rw [hslot, if_pos hload] at hnone
      simp [hnone] at hsome
    exact hfall.outSr.trans (nextOut_of_not_loads hload)
  · rw [hfall.capture, hslot]
    exact pulsesAt_pulseVector s.cfg.nr (loads s) (readSlot s)

/-! ### The application's write (rule R203) -/

theorem exec_rreg_of_lt {s : State} {k : Byte} (v : Byte) (h : k.toNat < s.cfg.nr) :
    exec (.rreg k v) s = .next (applyRreg k.toNat v s) := if_pos h

theorem exec_rreg_of_le {s : State} {k : Byte} (v : Byte) (h : s.cfg.nr ≤ k.toNat) :
    exec (.rreg k v) s = .refused (.noReadSlot k.toNat) := if_neg (Nat.not_lt.2 h)

/-- The reset override reads no read register and leaves them alone. -/
theorem resetRegisters_setRreg (s : State) (k : Nat) (v : Byte) :
    resetRegisters (setRreg s k v) = setRreg (resetRegisters s) k v := rfl

/-- Where reset, if asserted, has reached the registers, RREG writes its read register and nothing
else. -/
theorem applyRreg_eq_setRreg {s : State} (k : Nat) (v : Byte) (hheld : heldInReset s = true) :
    applyRreg k v s = setRreg s k v := by
  cases ha : asserted s with
  | false => exact applyRreg_running k v ha
  | true =>
    calc applyRreg k v s = resetRegisters (setRreg s k v) := react_asserted ha
      _ = setRreg s k v := by rw [resetRegisters_setRreg, ← (heldInReset_iff s).1 hheld ha]

/-- Settles O30: the slot's number alone decides between the write and the refusal. -/
theorem readRegisterWrite : Obligations.ReadRegisterWrite := by
  refine ⟨fun c st k v hk => ?_, fun s k v hheld hk => ?_, fun s k v => exec_rreg_of_le v⟩
  · exact (decode_encode_rreg c st k v).trans (if_neg (Nat.not_lt.2 hk))
  · rw [exec_rreg_of_lt v hk, applyRreg_eq_setRreg k.toNat v hheld, setRreg]

/-! ### The output control (rules R204 to R206) -/

theorem driveAck_iff (s : State) : driveAck s = true ↔
    ((s.st = .devAddr ∧ s.inSr.extractLsb' 1 7 = s.cfg.devAddr) ∧
        (s.inSr.getLsbD 0 = true ∨ s.cfg.addrAckWrite = true)) ∨
      s.st = .idxPtr ∨ s.st = .write := by
  simp [driveAck, addrMatch, dirFlag, or_assoc]

theorem contRead_iff (s : State) : contRead s = true ↔
    (s.st = .read ∧ s.mack = true) ∨
      ((s.st = .devAddr ∧ s.inSr.extractLsb' 1 7 = s.cfg.devAddr) ∧ s.inSr.getLsbD 0 = true) := by
  simp [contRead, readAddressed_iff, and_assoc]

/-- Rule R204: below a START the markers are the counter at 7 and at 8. -/
theorem nextRel_eq (s : State) : nextRel s =
    if s.startDet = true then true
    else if s.cnt = 7#4 then if driveAck s = true then false else true
    else if s.cnt = 8#4 then if contRead s = true then s.outSr.getLsbD 7 else true
    else if s.st = .read then s.outSr.getLsbD 7
    else true := by
  cases hd : s.startDet <;> cases hack : driveAck s <;> simp [nextRel, lsbMark, ackMark, hd, hack]

theorem driveSda_sdaRel {s : State} (v : Bit) (ha : asserted s = false) : (driveSda v s).sdaRel = s.sdaRel := by
  obtain ⟨a, b, h⟩ := driveSda_spec v ha
  rw [h]

theorem driveRst_sdaRel (v : Bit) (s : State) : (driveRst v s).sdaRel = (asserted (driveRst v s) || s.sdaRel) := by
  cases hreset : asserted (driveRst v s) with
  | true => rw [driveRst_asserted hreset, resetRegisters_sdaRel, Bool.true_or]
  | false =>
    rw [driveRst, asserted_react] at hreset
    rw [driveRst_running v hreset, Bool.false_or]

theorem exec_rreg_sdaRel {s t : State} {k v : Byte} (ha : asserted s = false) (h : exec (.rreg k v) s = .next t) :
    t.sdaRel = s.sdaRel := by
  by_cases hk : k.toNat < s.cfg.nr
  · rw [exec_rreg_of_lt v hk, applyRreg_running _ _ ha] at h
    injection h with h
    rw [← h, setRreg_sdaRel]
  · rw [exec_rreg_of_le v (Nat.not_lt.1 hk)] at h
    cases h

/-- Settles O29: the falling edge evaluates R204's lines in order; no other event but reset moves the
output control. -/
theorem outputControlNext : Obligations.OutputControlNext := by
  refine ⟨fun s ha => ⟨fun hc => ⟨_, rfl, ?_⟩, fun v => ⟨_, rfl, driveSda_sdaRel v ha⟩, fun v t h => ?_,
    fun k v t => exec_rreg_sdaRel ha⟩, ?_⟩
  · rw [driveClk_rise ha hc, risingEdge_sdaRel]
  · injection h with h
    exact h ▸ driveRst_sdaRel v s
  · intro s ha hc own
    refine ⟨_, rfl, ?_⟩
    rw [(driveClk_fall_spec ha hc).sdaRel, nextRel_eq]
    simp only [driveAck_iff, contRead_iff, own]

/-! ### When the engine pulls DATA low (rules R209, R210, R310) -/

/-- The three ways a falling edge leaves DATA driven: the acknowledge, the first bit of a read byte and
a later one. A pending START leaves none. -/
theorem nextRel_low_cases {s : State} (h : nextRel s = false) : s.startDet = false ∧
    ((s.cnt = 7#4 ∧ driveAck s = true) ∨
      (s.cnt = 8#4 ∧ contRead s = true ∧ s.outSr.getLsbD 7 = false) ∨
      (s.cnt ≠ 7#4 ∧ s.cnt ≠ 8#4 ∧ s.st = .read ∧ s.outSr.getLsbD 7 = false)) := by
  rw [nextRel_eq] at h
  split at h
  · cases h
  · next hd =>
    refine ⟨by simpa using hd, ?_⟩
    split at h
    · next h7 => exact .inl ⟨h7, by simpa using h⟩
    · next h7 =>
      split at h
      · next h8 => exact .inr (.inl ⟨h8, by simpa using h⟩)
      · next h8 => exact .inr (.inr ⟨h7, h8, by simpa using h⟩)

/-- Settles O33: each way of driving needs a protocol state other than IDLE, and the acknowledge of an
address byte needs the match. -/
theorem idleNeverDrives : Obligations.IdleNeverDrives := by
  refine fun s ha hc hst => ⟨_, rfl, ?_⟩
  rw [(driveClk_fall_spec ha hc).sdaRel]
  by_contra hlow
  obtain ⟨-, ⟨-, hack⟩ | ⟨h8, hcont, -⟩ | ⟨h7, -, hread, -⟩⟩ := nextRel_low_cases (by simpa using hlow)
  · obtain hidle | ⟨hdev, -, hother⟩ := hst
    · simp [driveAck_iff, hidle] at hack
    · simp [driveAck_iff, hdev, hother] at hack
  · obtain hidle | ⟨-, h7, -⟩ := hst
    · simp [contRead_iff, hidle] at hcont
    · simp [h7] at h8
  · obtain hidle | ⟨-, h7', -⟩ := hst
    · simp [hidle] at hread
    · exact h7 h7'

/-- Slots (a) and (b) of rule R209: the ack slot of a byte whose lsb edge drives the acknowledge. -/
theorem engineSlot_of_driveAck {t : State} (hcnt : t.cnt = 8#4) (h : driveAck t = true) : engineSlot t = true := by
  obtain ⟨⟨hdev, hmatch⟩, hdir⟩ | hidx | hwrite := (driveAck_iff t).1 h
  · simpa [engineSlot, hdev, hcnt, addrMatch, hmatch, dirFlag] using hdir
  · simp [engineSlot, hidx, hcnt]
  · simp [engineSlot, hwrite, hcnt]

/-- Slots (c) of rule R209: the data slots in READ. -/
theorem engineSlot_of_read {t : State} (hst : t.st = .read) (hcnt : t.cnt ≤ 7#4) : engineSlot t = true := by
  simpa [engineSlot, hst] using hcnt

theorem driveAck_congr {s t : State} (hst : t.st = s.st) (hin : t.inSr = s.inSr) (hcfg : t.cfg = s.cfg) :
    driveAck t = driveAck s := by
  simp [driveAck, addrMatch, dirFlag, hst, hin, hcfg]

/-- Without a pending condition the protocol state changes at the ack marker only. -/
theorem nextSt_of_no_condition {s : State} (hstart : s.startDet = false) (hstop : s.stopDet = false)
    (h8 : s.cnt ≠ 8#4) : nextSt s = s.st := by
  simp [nextSt_eq, hstart, hstop, h8]

/-- The engine transmits after the ack marker exactly where the table goes to READ, or stays in it
(rules R171, R206). -/
theorem transition_of_contRead {s : State} (h : contRead s = true) :
    transition s.st (addrMatch s) (dirFlag s) s.mack = .read := by
  obtain ⟨hread, hmack⟩ | ⟨⟨hdev, hmatch⟩, hdir⟩ := (contRead_iff s).1 h
  · simp [transition, hread, hmack]
  · simp [transition, hdev, addrMatch, hmatch, dirFlag, hdir]

/-- Rule R209 at one falling edge with no STOP pending. -/
theorem engineSlot_of_driven {s t : State} (hfall : AfterFall s t) (hle : s.cnt ≤ 8#4) (hstop : s.stopDet = false)
    (hlow : t.sdaRel = false) : engineSlot t = true ∧ (t.st = .read → s.outSr.getLsbD 7 = false) := by
  rw [hfall.sdaRel] at hlow
  obtain ⟨hstart, ⟨h7, hack⟩ | ⟨h8, hcont, hbit⟩ | ⟨h7, h8, hread, hbit⟩⟩ := nextRel_low_cases hlow
  · have hst : t.st = s.st := hfall.st.trans (nextSt_of_no_condition hstart hstop (by simp [h7]))
    have hin : t.inSr = s.inSr := by simp [hfall.inSr, nextInFall, hstop]
    have hcnt : t.cnt = 8#4 := by simp [hfall.cnt, nextCnt_eq, h7, hstart]
    refine ⟨engineSlot_of_driveAck hcnt ((driveAck_congr hst hin hfall.cfg).trans hack), fun hread => ?_⟩
    rw [hst] at hread
    simp [driveAck_iff, hread] at hack
  · have hst : t.st = .read := by simp [hfall.st, nextSt_eq, hstart, hstop, h8, transition_of_contRead hcont]
    have hcnt : t.cnt = 0#4 := by simp [hfall.cnt, nextCnt_eq, h8]
    exact ⟨engineSlot_of_read hst (by simp [hcnt]), fun _ => hbit⟩
  · have hst : t.st = .read := hfall.st.trans ((nextSt_of_no_condition hstart hstop h8).trans hread)
    have hcnt : t.cnt = s.cnt + 1#4 := by simp [hfall.cnt, nextCnt_eq, h8, hstart]
    have hle7 : t.cnt ≤ 7#4 := by rw [hcnt]; bv_omega
    exact ⟨engineSlot_of_read hst hle7, fun _ => hbit⟩

/-- Settles O34: R204 reads the protocol state before the edge, which a pending STOP makes IDLE at the
same edge; hence the two latent windows. -/
theorem driveSlots : Obligations.DriveSlots := by
  intro s ha hc hle
  have hfall : AfterFall s (driveClk false s) := driveClk_fall_spec ha hc
  refine ⟨_, rfl, engineSlot_of_driven hfall hle, fun hstop hstart hread hlt => ?_, fun hstop hlsb hack => ?_⟩
  · have h7 : s.cnt ≠ 7#4 := by rintro h; simp [h] at hlt
    have h8 : s.cnt ≠ 8#4 := by rintro h; simp [h] at hlt
    refine ⟨?_, ?_⟩
    · simp [hfall.sdaRel, nextRel_eq, hstart, h7, h8, hread]
    · simp [hfall.st, nextSt_eq, hstart, hstop]
  · obtain ⟨h7, hstart⟩ := (lsbMark_iff s).1 hlsb
    refine ⟨?_, ?_, ?_⟩
    · simp [hfall.sdaRel, nextRel_eq, hstart, h7, hack]
    · simp [hfall.st, nextSt_eq, hstart, hstop]
    · simp [hfall.ptr, nextPtr_eq, hstop]

end Sys2Proof.Machine

/-! # Proofs: the net effect of a byte frame (44_transactions.md)

The data slots of a frame by induction on their number, then its lsb edge and its ack edge. -/

namespace Sys2Proof.Machine

/-! ### What the flags and the preload read -/

theorem atFrameStart_iff (s : State) :
    atFrameStart s = true ↔ s.clk = false ∧ s.cnt = 0#4 ∧ asserted s = false := by
  simp [atFrameStart, and_assoc]

theorem asserted_congr {s t : State} (hcfg : t.cfg = s.cfg) (hrst : t.rst = s.rst) : asserted t = asserted s := by
  simp [asserted, hcfg, hrst]

theorem readAddressed_congr {s t : State} (hst : t.st = s.st) (hin : t.inSr = s.inSr) (hcfg : t.cfg = s.cfg) :
    readAddressed t = readAddressed s := by
  simp [readAddressed, addrMatch, dirFlag, hst, hin, hcfg]

theorem loadGate_congr {s t : State} (hst : t.st = s.st) (hin : t.inSr = s.inSr) (hcfg : t.cfg = s.cfg) :
    loadGate t = loadGate s := by
  rw [loadGate, loadGate, readAddressed_congr hst hin hcfg, hst, hcfg]

theorem readByte_congr {s t : State} (hcfg : t.cfg = s.cfg) (hrreg : t.rreg = s.rreg) (p : Byte) :
    readByte t p = readByte s p := by
  rw [readByte, readByte, hcfg, hrreg]

/-! ### A byte shifted in bit by bit (rules R19, R152) -/

theorem shl_getLsbD_zero (x : Byte) (d : Bit) : (shl x d).getLsbD 0 = d := by
  cases d <;> simp [shl_eq]

theorem shl_getLsbD_succ (x : Byte) (d : Bit) {i : Nat} (hi : i + 1 < 8) :
    (shl x d).getLsbD (i + 1) = x.getLsbD i := by
  have hi8 : i < 8 := by omega
  cases d <;> simp [shl_eq, hi, BitVec.getLsbD_eq_getElem hi8]

/-- The next bit of `w` shifted in behind those before it. -/
theorem shl_next_bit (x w : Byte) {n : Nat} (hn : n < 8) :
    shl (x <<< n ||| w >>> (8 - n)) (w.getLsbD (7 - n)) = x <<< (n + 1) ||| w >>> (8 - (n + 1)) := by
  refine BitVec.eq_of_getLsbD_eq fun i hi => ?_
  cases i with
  | zero =>
    rw [shl_getLsbD_zero]
    simp [Nat.sub_add_eq, Nat.sub_right_comm 8 n 1]
  | succ i =>
    have hpos : 8 - n + i = 8 - (n + 1) + (i + 1) := by omega
    rw [shl_getLsbD_succ _ _ hi]
    simp [hi, hpos, show i < 8 by omega]

/-! ### One data slot -/

theorem clockSlots_append (as bs : List Bit) (s : State) :
    clockSlots (as ++ bs) s = clockSlots bs (clockSlots as s) := by
  simp [clockSlots]

/-- `u` is the state at the falling edge of a data slot that offers `b` and begins in `s`: the wire's
level is in `in_sr` and the rising edge has cleared both detectors (rules R129, R132, R152). -/
structure Sampled (b : Bit) (s u : State) : Prop where
  inSr : u.inSr = shl s.inSr (b && s.sdaRel)
  startDet : u.startDet = false
  stopDet : u.stopDet = false
  st : u.st = s.st
  cnt : u.cnt = s.cnt
  ptr : u.ptr = s.ptr
  outSr : u.outSr = s.outSr
  wreg : u.wreg = s.wreg
  cfg : u.cfg = s.cfg
  clk : u.clk = s.clk
  rst : u.rst = s.rst
  rreg : u.rreg = s.rreg
  input : u.input = s.input

/-- A slot before the ack slot, whatever conditions are pending as it begins. -/
theorem clockSlot_data {s : State} (b : Bit) (ha : asserted s = false) (hc : s.clk = false) (h8 : s.cnt ≠ 8#4) :
    ∃ u, Sampled b s u ∧ clockSlot b s = fallingEdge u := by
  obtain ⟨x, y, hu⟩ := driveSda_spec (slotLevel b s) ha
  refine ⟨_, ?_, clockSlot_spec b ha hc⟩
  rw [hu]
  constructor
  case inSr => simp [ackMark, h8]
  all_goals rfl

/-- The engine's drive in data slot `n` of a frame that starts in `s`: what the frame began with, and then
in READ the bits of `out_sr` (rules R204, R207, R208). -/
def slotRel (s : State) (n : Nat) : Bit :=
  if n = 0 then s.sdaRel else if s.st = .read then s.outSr.getLsbD (8 - n) else true

/-- The wire in data slot `n` is the level offered, where the engine lets it through. -/
theorem wireByte_getLsbD (v : Byte) (s : State) {n : Nat} (hn : n < 8) :
    (wireByte v s).getLsbD (7 - n) = (v.getLsbD (7 - n) && slotRel s n) := by
  have hfirst : ∀ b : Bit, (if b = true then 0x80#8 else 0x00#8).getLsbD (7 - n) = (b && decide (n = 0)) := by
    interval_cases n <;> decide
  have hlater : ∀ b : Bit, (if b = true then 0xFF#8 else 0x7F#8).getLsbD (7 - n) = (b || decide (n ≠ 0)) := by
    interval_cases n <;> decide
  cases hst : s.st with
  | read =>
    rw [wireByte, hst, BitVec.getLsbD_and, BitVec.getLsbD_or, BitVec.getLsbD_ushiftRight, hfirst, slotRel]
    by_cases h0 : n = 0
    · simp [h0]
    · simp [h0, hst, show 1 + (7 - n) = 8 - n by omega]
  | idle | devAddr | idxPtr | write =>
    rw [wireByte, hst, BitVec.getLsbD_and, hlater, slotRel]
    by_cases h0 : n = 0 <;> simp [h0, hst]
/-- `t` is a state after the first `n` data slots of a frame that starts in `s` and offers `v`: no rule
but R150, R152, R200 and R204 has touched a register. What the lsb edge leaves in `out_sr` and on DATA
is not said here. -/
structure DuringData (v : Byte) (s : State) (n : Nat) (t : State) : Prop where
  cnt : t.cnt = BitVec.ofNat 4 n
  inSr : t.inSr = s.inSr <<< n ||| wireByte v s >>> (8 - n)
  outSr : n ≤ 7 → t.outSr = s.outSr <<< n
  sdaRel : n ≤ 7 → t.sdaRel = slotRel s n
  st : t.st = s.st
  ptr : t.ptr = s.ptr
  wreg : t.wreg = s.wreg
  cfg : t.cfg = s.cfg
  clk : t.clk = s.clk
  rst : t.rst = s.rst
  rreg : t.rreg = s.rreg
  input : t.input = s.input

theorem DuringData.asserted {v : Byte} {s t : State} {n : Nat} (h : DuringData v s n t) :
    asserted t = Machine.asserted s := asserted_congr h.cfg h.rst

/-- The slot's next bit of `v`, where the engine lets it through, is the next bit of the wire. -/
theorem DuringData.shl_inSr {v : Byte} {s t : State} {n : Nat} (h : DuringData v s n t) (hn : n < 8) :
    shl t.inSr (v.getLsbD (7 - n) && t.sdaRel) = s.inSr <<< (n + 1) ||| wireByte v s >>> (8 - (n + 1)) := by
  rw [h.inSr, h.sdaRel (by omega), ← wireByte_getLsbD v s hn, shl_next_bit _ _ hn]

/-- Below the ack slot the positions are told apart. -/
theorem DuringData.cnt_ne {v : Byte} {s t : State} {n m : Nat} (h : DuringData v s n t) (hn : n < 8) (hm : m ≤ 8)
    (hne : n ≠ m) : t.cnt ≠ BitVec.ofNat 4 m := by
  rw [h.cnt]
  intro heq
  have hnat : n % 2 ^ 4 = m % 2 ^ 4 := by simpa using congrArg BitVec.toNat heq
  omega

/-- One more data slot. -/
theorem DuringData.next {v : Byte} {s t : State} {n : Nat} (h : DuringData v s n t) (hn : n < 8)
    (ha : Machine.asserted s = false) (hc : s.clk = false) :
    DuringData v s (n + 1) (clockSlot (v.getLsbD (7 - n)) t) := by
  have h8 : t.cnt ≠ 8#4 := h.cnt_ne hn (Nat.le_refl 8) (by omega)
  obtain ⟨u, hu, hslot⟩ := clockSlot_data (v.getLsbD (7 - n)) (h.asserted.trans ha) (h.clk.trans hc) h8
  rw [← hu.cnt] at h8
  have hack : ackMark u = false := by simp [ackMark, h8]
  rw [hslot]
  constructor
  case cnt => simp [nextCnt, hack, hu.startDet, hu.cnt, h.cnt, BitVec.ofNat_add]
  case inSr => simp [nextInFall, hu.stopDet, hu.inSr, h.shl_inSr hn]
  case outSr =>
    intro hle
    have h7 : u.cnt ≠ 7#4 := hu.cnt ▸ h.cnt_ne hn (by decide) (by omega)
    rw [fallingEdge_outSr, nextOut_of_not_loads (not_loads_of_not_lsbMark (by simp [lsbMark, h7]))]
    simp [hu.stopDet, hu.outSr, h.outSr (by omega), BitVec.shiftLeft_add]
  case sdaRel =>
    intro hle
    have h7 : u.cnt ≠ 7#4 := hu.cnt ▸ h.cnt_ne hn (by decide) (by omega)
    have hbit : (s.outSr <<< n).getLsbD 7 = s.outSr.getLsbD (7 - n) := by
      rw [BitVec.getLsbD_shiftLeft]
      simp [show ¬7 < n by omega]
    rw [fallingEdge_sdaRel, nextRel_eq, hu.startDet, if_neg h7, if_neg h8, hu.outSr, h.outSr (by omega), hbit, hu.st,
      h.st]
    simp [slotRel]
  case st => exact (nextSt_of_no_condition hu.startDet hu.stopDet h8).trans (hu.st.trans h.st)
  case ptr => simp [nextPtr_eq, hack, hu.stopDet, hu.ptr, h.ptr]
  case wreg => simp [nextWreg, writeStrobe, hack, hu.wreg, h.wreg]
  case cfg => exact hu.cfg.trans h.cfg
  case clk => exact hu.clk.trans h.clk
  case rst => exact hu.rst.trans h.rst
  case rreg => exact hu.rreg.trans h.rreg
  case input => exact hu.input.trans h.input

theorem bitsOfByte_take_succ (v : Byte) {n : Nat} (hn : n < 8) :
    (bitsOfByte v).take (n + 1) = (bitsOfByte v).take n ++ [v.getLsbD (7 - n)] := by
  interval_cases n <;> rfl

/-- The data slots of a frame, by induction on their number. -/
theorem duringData_clockSlots (v : Byte) {s : State} (h : atFrameStart s = true) {n : Nat} (hn : n ≤ 8) :
    DuringData v s n (clockSlots ((bitsOfByte v).take n) s) := by
  obtain ⟨hc, h0, ha⟩ := (atFrameStart_iff s).1 h
  induction n with
  | zero =>
    refine ⟨h0, ?_, fun _ => (BitVec.shiftLeft_zero _).symm, fun _ => rfl, rfl, rfl, rfl, rfl, rfl, rfl, rfl, rfl⟩
    simp [clockSlots, BitVec.ushiftRight_eq_zero]
  | succ n ih =>
    rw [bitsOfByte_take_succ v hn, clockSlots_append]
    exact (ih (by omega)).next hn ha hc

/-! ### The lsb edge -/

/-- Rules R200 and R201 at an lsb edge that finds `out_sr` with nothing left to shift out. -/
theorem nextOut_of_lsbMark {s : State} (h : lsbMark s = true) (hstop : s.stopDet = false)
    (hout : s.outSr <<< 1 = 0x00#8) : nextOut s = if loadGate s = true then readByte s s.ptr else 0x00#8 := by
  cases hgate : loadGate s with
  | false => simp [nextOut_of_not_loads, loads, hgate, hstop, hout]
  | true =>
    cases hslot : slotOf s.cfg.rmap s.ptr with
    | none => simp [nextOut_of_not_loads, loads, readSlot, readByte, hslot, hstop, hout]
    | some j => simp [nextOut_of_loads, loads, h, hgate, readSlot, rread, readByte, hslot]

/-- The slot that a frame's lsb edge loads from, if any (rules R201, R202). -/
def preloadSlot (v : Byte) (s : State) : Option Nat :=
  if loadGate (atLsb v s) = true then slotOf s.cfg.rmap s.ptr else none

/-- What a frame's lsb edge decides, beside what the data slots have left. -/
structure AfterLsb (v : Byte) (s t : State) : Prop extends DuringData v s 8 t where
  startDet : t.startDet = false
  stopDet : t.stopDet = false
  preloaded : t.outSr = preload v s
  acked : t.sdaRel = !driveAck (atLsb v s)
  captured : pulsesAt t.capture s.cfg.nr (preloadSlot v s)

/-- The eighth data slot ends in the lsb edge. -/
theorem DuringData.lsb {v : Byte} {s t : State} (h : DuringData v s 7 t) (ha : Machine.asserted s = false)
    (hc : s.clk = false) : AfterLsb v s (clockSlot (v.getLsbD 0) t) := by
  have hnext : DuringData v s 8 (clockSlot (v.getLsbD 0) t) := h.next (by decide) ha hc
  obtain ⟨u, hu, hslot⟩ := clockSlot_data (v.getLsbD 0) (h.asserted.trans ha) (h.clk.trans hc) (by simp [h.cnt])
  have hst : u.st = (atLsb v s).st := hu.st.trans h.st
  have hcfg : u.cfg = (atLsb v s).cfg := hu.cfg.trans h.cfg
  have hin : u.inSr = wireByte v s := hu.inSr.trans (by simpa using h.shl_inSr (by decide))
  have hptr : u.ptr = s.ptr := hu.ptr.trans h.ptr
  have hgate : loadGate u = loadGate (atLsb v s) := loadGate_congr hst hin hcfg
  have hlsb : lsbMark u = true := (lsbMark_iff u).2 ⟨hu.cnt.trans h.cnt, hu.startDet⟩
  rw [hslot] at hnext ⊢
  refine ⟨hnext, hu.startDet, hu.stopDet, ?_, ?_, ?_⟩
  · have hout : u.outSr <<< 1 = 0x00#8 := by simp [hu.outSr, h.outSr, ← BitVec.shiftLeft_add]
    have hread : readByte u u.ptr = readByte s s.ptr := by
      rw [hptr, readByte_congr (hu.cfg.trans h.cfg) (hu.rreg.trans h.rreg)]
    rw [fallingEdge_outSr, nextOut_of_lsbMark hlsb hu.stopDet hout, hgate, hread, preload]
  · simp [nextRel, hlsb, hu.startDet, driveAck_congr hst hin hcfg]
  · have hfrom : readSlot u = slotOf s.cfg.rmap s.ptr := by rw [readSlot, hptr, hu.cfg, h.cfg]
    have hslot : (if loads u = true then readSlot u else none) = preloadSlot v s :=
      (loadedSlot_eq u).trans (if_congr (by simp [hlsb, hgate]) hfrom rfl)
    rw [fallingEdge_capture, nextCapture, ← hslot, hcfg]
    exact pulsesAt_pulseVector s.cfg.nr (loads u) (readSlot u)

/-! ### What is preloaded (rule R201) -/

/-- A byte in READ, or an own address with direction 1, opens both gates. -/
theorem loadGate_of_sending {v : Byte} {s : State} (h : s.st = .read ∨ readAddressed (atLsb v s) = true) :
    loadGate (atLsb v s) = true := (loadGate_iff _).2 (.inr h.symm)

/-- In every other frame `P_CAPTURE_GATE` decides alone. -/
theorem loadGate_of_listening {v : Byte} {s : State} (hst : s.st ≠ .read) (hra : readAddressed (atLsb v s) = false) :
    loadGate (atLsb v s) = true ↔ s.cfg.captureGate = .always := by
  have hst' : (atLsb v s).st ≠ .read := hst
  rw [loadGate_iff, hra]
  exact ⟨fun h => h.resolve_right (by simp [hst']), .inl⟩

theorem preload_of_sending {v : Byte} {s : State} (h : s.st = .read ∨ readAddressed (atLsb v s) = true) :
    preload v s = readByte s s.ptr := if_pos (loadGate_of_sending h)

theorem preload_of_listening {v : Byte} {s : State} (hst : s.st ≠ .read) (hra : readAddressed (atLsb v s) = false) :
    preload v s = if s.cfg.captureGate = .always then readByte s s.ptr else 0x00#8 :=
  if_congr (loadGate_of_listening hst hra) rfl rfl

/-- The state after the lsb edge in the statements' vocabulary, where both gates are open. -/
theorem AfterLsb.of_sending {v : Byte} {s t : State} {ack : Bit} (h : AfterLsb v s t)
    (hs : s.st = .read ∨ readAddressed (atLsb v s) = true) (hack : driveAck (atLsb v s) = ack) :
    t.outSr = readByte s s.ptr ∧ (t.sdaRel = !ack) ∧ pulsesAt t.capture s.cfg.nr (slotOf s.cfg.rmap s.ptr) := by
  have hslot : preloadSlot v s = slotOf s.cfg.rmap s.ptr := if_pos (loadGate_of_sending hs)
  exact ⟨h.preloaded.trans (preload_of_sending hs), hack ▸ h.acked, hslot ▸ h.captured⟩

/-- The same, where `P_CAPTURE_GATE` decides. -/
theorem AfterLsb.of_listening {v : Byte} {s t : State} {ack : Bit} (h : AfterLsb v s t) (hst : s.st ≠ .read)
    (hra : readAddressed (atLsb v s) = false) (hack : driveAck (atLsb v s) = ack) :
    t.outSr = (if s.cfg.captureGate = .always then readByte s s.ptr else 0x00#8) ∧ (t.sdaRel = !ack) ∧
      pulsesAt t.capture s.cfg.nr (if s.cfg.captureGate = .always then slotOf s.cfg.rmap s.ptr else none) := by
  have hslot : preloadSlot v s = if s.cfg.captureGate = .always then slotOf s.cfg.rmap s.ptr else none :=
    if_congr (loadGate_of_listening hst hra) rfl rfl
  exact ⟨h.preloaded.trans (preload_of_listening hst hra), hack ▸ h.acked, hslot ▸ h.captured⟩

/-! ### The ack edge, and the whole frame -/

theorem afterLsb_clockSlots (v : Byte) {s : State} (h : atFrameStart s = true) :
    AfterLsb v s (clockSlots (bitsOfByte v) s) := by
  obtain ⟨hc, -, ha⟩ := (atFrameStart_iff s).1 h
  have h7 : DuringData v s 7 (clockSlots ((bitsOfByte v).take 7) s) := duringData_clockSlots v h (by decide)
  exact h7.lsb ha hc

/-- The write strobe stores one byte (rules R179, R181). -/
theorem nextWreg_of_strobe {s : State} (h : writeStrobe s = true) :
    nextWreg s = storeBytes s.cfg s.ptr [s.inSr] s.wreg := by
  rw [nextWreg, if_pos h, storeBytes, storeBytes, writeSlot]
  cases slotOf s.cfg.wmap s.ptr <;> rfl

/-- A falling edge at the ack marker, with no STOP pending. -/
theorem fallingEdge_of_ackMark {s : State} (h : ackMark s = true) (hstop : s.stopDet = false) :
    fallingEdge s = { s with
      cnt := 0#4
      st := transition s.st (addrMatch s) (dirFlag s) s.mack
      ptr := if s.st = .idxPtr then s.inSr else if ptrInc s = true then s.ptr + 1#8 else s.ptr
      wreg := if s.st = .write then storeBytes s.cfg s.ptr [s.inSr] s.wreg else s.wreg
      update := pulseVector s.cfg.nw (s.st == .write) (writeSlot s)
      outSr := s.outSr <<< 1
      capture := List.replicate s.cfg.nr false
      sdaRel := if contRead s = true then s.outSr.getLsbD 7 else true } := by
  obtain ⟨h8, hstart⟩ := (ackMark_iff s).1 h
  have hload : loads s = false := not_loads_of_not_lsbMark (ackMark_not_lsbMark h)
  have hcnt : nextCnt s = 0#4 := by simp [nextCnt, h]
  have hst : nextSt s = transition s.st (addrMatch s) (dirFlag s) s.mack := by simp [nextSt, hstart, hstop, h]
  have hptr : nextPtr s = if s.st = .idxPtr then s.inSr else if ptrInc s = true then s.ptr + 1#8 else s.ptr := by
    simp [nextPtr_eq, hstop, h]
  have hwreg : nextWreg s = if s.st = .write then storeBytes s.cfg s.ptr [s.inSr] s.wreg else s.wreg := by
    split
    · next hwrite => exact nextWreg_of_strobe ((writeStrobe_iff s).2 ⟨h, hwrite⟩)
    · next hwrite => simp [nextWreg, writeStrobe, hwrite]
  have hupdate : nextUpdate s = pulseVector s.cfg.nw (s.st == .write) (writeSlot s) := by
    simp [nextUpdate, writeStrobe, h]
  have hout : nextOut s = s.outSr <<< 1 := by simp [nextOut_of_not_loads hload, hstop]
  have hcapture : nextCapture s = List.replicate s.cfg.nr false := by rw [nextCapture, hload, pulseVector_false]
  have hin : nextInFall s = s.inSr := by simp [nextInFall, hstop]
  have hrel : nextRel s = if contRead s = true then s.outSr.getLsbD 7 else true := by
    simp [nextRel_eq, hstart, h8]
  rw [fallingEdge, hcnt, hst, hptr, hwreg, hupdate, hout, hcapture, hin, hrel]

/-- The ack slot ends the frame in its net effect: its rising edge makes of the lsb edge's state the
state that `atAck` names, as far as any rule reads it. -/
theorem AfterLsb.clockSlot_ack {v : Byte} {s t : State} (h : AfterLsb v s t) (k : Bit)
    (h0 : atFrameStart s = true) : clockSlot k t = netFrame v k s := by
  obtain ⟨hc, -, ha⟩ := (atFrameStart_iff s).1 h0
  have hack : ackMark t = true := (ackMark_iff t).2 ⟨h.cnt, h.startDet⟩
  have hin : t.inSr = wireByte v s := by simpa using h.inSr
  have hsampled : ({ t with
      envSda := slotLevel k t
      startRst := false
      stopRst := false
      inSr := if ackMark t then t.inSr else shl t.inSr (k && t.sdaRel)
      mack := if ackMark t then !(k && t.sdaRel) else t.mack } : State) = { atAck v k s with
      envSda := k || driveAck (atLsb v s)
      startRst := false
      stopRst := false
      outSr := preload v s
      sdaRel := !driveAck (atLsb v s)
      update := t.update
      capture := t.capture } := by
    simp only [atAck, atLsb, hack, if_true, slotLevel, h.acked, Bool.not_not, State.mk.injEq, true_and]
    exact ⟨h.cfg, h.clk, h.rst, h.rreg, h.st, h.cnt, h.ptr, hin, h.preloaded, h.startDet, h.stopDet, h.wreg,
      h.input⟩
  rw [clockSlot_quiet k (h.asserted.trans ha) (h.clk.trans hc) h.startDet h.stopDet, hsampled,
    fallingEdge_of_ackMark rfl rfl]
  rfl

/-- Settles O43: the data slots shift the byte in, the lsb edge preloads and decides the acknowledge, the
ack edge applies the table. -/
theorem frameNetEffect : Obligations.FrameNetEffect := by
  intro s v k h
  have hlsb : AfterLsb v s (clockSlots (bitsOfByte v) s) := afterLsb_clockSlots v h
  obtain ⟨hc, -, ha⟩ := (atFrameStart_iff s).1 h
  refine ⟨?_, hlsb.preloaded, hlsb.acked⟩
  rw [clockFrame, openFrame_low ha hc, frameSlots, clockSlots_append]
  exact hlsb.clockSlot_ack k h

end Sys2Proof.Machine

/-! # Proofs: the eight byte frames (44_transactions.md)

The net effect in each protocol state: the flags of rules R171, R176, R201, R205 and R206 at the frame's
two deciding edges. -/

namespace Sys2Proof.Machine

/-! ### The wire's byte (rules R25, R102) -/

/-- The address byte of rule R97. -/
def addrByte (a : Addr7) (dir : Bit) : Byte := BitVec.ofNat 8 (2 * a.toNat + dir.toNat)

theorem bitsOfByte_addrByte (a : Addr7) (dir : Bit) : bitsOfByte (addrByte a dir) = bitsOfAddr a ++ [dir] := by
  revert a dir; decide

theorem addrByte_addr (a : Addr7) (dir : Bit) : (addrByte a dir).extractLsb' 1 7 = a := by
  revert a dir; decide

theorem addrByte_dir (a : Addr7) (dir : Bit) : (addrByte a dir).getLsbD 0 = dir := by
  revert a dir; decide

/-- Where the engine receives and has released DATA, the byte offered is the byte on the wire. -/
theorem wireByte_of_released (v : Byte) {s : State} (hst : s.st ≠ .read) (hrel : s.sdaRel = true) :
    wireByte v s = v := by
  have hall : v &&& 0xFF#8 = v := BitVec.and_allOnes
  cases h : s.st with
  | read => exact absurd h hst
  | idle | devAddr | idxPtr | write => simp [wireByte, h, hrel, hall]

theorem slotRel_of_released {s : State} (hst : s.st ≠ .read) (hrel : s.sdaRel = true) (n : Nat) :
    slotRel s n = true := by
  simp [slotRel, hst, hrel]

theorem shiftOut_bits (d : Byte) : d <<< 1 >>> 1 ||| (if d.getLsbD 7 = true then 0x80#8 else 0x00#8) = d := by
  revert d; decide

/-- Where the engine sends `d`, its first bit already on DATA, the wire carries what both let through. -/
theorem wireByte_of_sending {s : State} {d : Byte} (r : Byte) (hst : s.st = .read) (hrel : s.sdaRel = d.getLsbD 7)
    (hout : s.outSr = d <<< 1) : wireByte r s = d &&& r := by
  rw [wireByte, hst, hout, hrel, shiftOut_bits, BitVec.and_comm]

theorem slotRel_of_sending {s : State} {d : Byte} (hst : s.st = .read) (hrel : s.sdaRel = d.getLsbD 7)
    (hout : s.outSr = d <<< 1) {n : Nat} (hn : n < 8) : slotRel s n = d.getLsbD (7 - n) := by
  rw [slotRel, if_pos hst]
  split
  · next h0 => rw [hrel, h0]
  · next h0 =>
    rw [hout, BitVec.getLsbD_shiftLeft]
    simp [show 8 - n < 8 by omega, show ¬8 - n < 1 by omega, show 8 - n - 1 = 7 - n by omega]

theorem clockFrame_addrSlots {s : State} (a : Addr7) (dir k : Bit) (h : atFrameStart s = true) :
    clockFrame (addrSlots a dir k) s = netFrame (addrByte a dir) k s := by
  have hslots : addrSlots a dir k = frameSlots (addrByte a dir) k := by
    simp [addrSlots, frameSlots, bitsOfByte_addrByte]
  rw [hslots]
  exact (frameNetEffect s _ k h).1

/-- The drive after each slot of a frame's byte, the lsb edge included. -/
theorem clockSlots_take_sdaRel (v : Byte) {s : State} (h : atFrameStart s = true) (n : Nat) :
    (clockSlots ((bitsOfByte v).take n) s).sdaRel = if n < 8 then slotRel s n else !driveAck (atLsb v s) := by
  split
  · next hn => exact (duringData_clockSlots v h (by omega)).sdaRel (by omega)
  · next hn =>
    rw [List.take_of_length_le (by rw [bitsOfByte_length]; omega)]
    exact (afterLsb_clockSlots v h).acked

/-! ### The flags at a frame's two deciding edges -/

@[simp] theorem atLsb_st (v : Byte) (s : State) : (atLsb v s).st = s.st := rfl
@[simp] theorem atLsb_cfg (v : Byte) (s : State) : (atLsb v s).cfg = s.cfg := rfl
@[simp] theorem atAck_st (v : Byte) (k : Bit) (s : State) : (atAck v k s).st = s.st := rfl
@[simp] theorem atAck_cfg (v : Byte) (k : Bit) (s : State) : (atAck v k s).cfg = s.cfg := rfl
@[simp] theorem atAck_mack (v : Byte) (k : Bit) (s : State) :
    (atAck v k s).mack = !(k && !driveAck (atLsb v s)) := rfl

/-- The ack slot moves neither the byte nor the state, so the flags of the byte stay. -/
@[simp] theorem addrMatch_atAck (v : Byte) (k : Bit) (s : State) :
    addrMatch (atAck v k s) = addrMatch (atLsb v s) := rfl
@[simp] theorem dirFlag_atAck (v : Byte) (k : Bit) (s : State) : dirFlag (atAck v k s) = dirFlag (atLsb v s) := rfl
@[simp] theorem readAddressed_atAck (v : Byte) (k : Bit) (s : State) :
    readAddressed (atAck v k s) = readAddressed (atLsb v s) := rfl

theorem readAddressed_of_not_devAddr {s : State} (h : s.st ≠ .devAddr) : readAddressed s = false := by
  simp [readAddressed, h]

/-- Rule R176 where a byte is transferred: the pointer advances but under NONE. -/
theorem ptrInc_of_transfer {v : Byte} (k : Bit) {s : State}
    (h : readAddressed (atLsb v s) = true ∨ s.st = .read ∨ s.st = .write) :
    (if ptrInc (atAck v k s) = true then s.ptr + 1#8 else s.ptr) = pointerAfter s.cfg s.ptr 1 := by
  have hst : s.st ≠ .idxPtr := by
    intro hst
    simp [readAddressed_of_not_devAddr, hst] at h
  cases hinc : s.cfg.idxInc <;> simp [ptrInc_iff, pointerAfter, hinc, h, hst]

/-- Rule R176 where none is: the pointer advances under ALL_BUT_IDX only. -/
theorem ptrInc_of_no_transfer {v : Byte} (k : Bit) {s : State} (hra : readAddressed (atLsb v s) = false)
    (hst : s.st = .idle ∨ s.st = .devAddr) :
    (if ptrInc (atAck v k s) = true then s.ptr + 1#8 else s.ptr) =
      if s.cfg.idxInc = .allButIdx then s.ptr + 1#8 else s.ptr := by
  refine if_congr ?_ rfl rfl
  obtain hst | hst := hst <;> simp [ptrInc_iff, hra, hst]

/-! ### The fields of a net effect that no protocol state decides -/

@[simp] theorem netFrame_cfg (v : Byte) (k : Bit) (s : State) : (netFrame v k s).cfg = s.cfg := rfl
@[simp] theorem netFrame_rreg (v : Byte) (k : Bit) (s : State) : (netFrame v k s).rreg = s.rreg := rfl
@[simp] theorem netFrame_envSda (v : Byte) (k : Bit) (s : State) :
    (netFrame v k s).envSda = (k || driveAck (atLsb v s)) := rfl
@[simp] theorem netFrame_startDet (v : Byte) (k : Bit) (s : State) : (netFrame v k s).startDet = false := rfl
@[simp] theorem netFrame_stopDet (v : Byte) (k : Bit) (s : State) : (netFrame v k s).stopDet = false := rfl

theorem netFrame_wreg_of_not_write (v : Byte) (k : Bit) {s : State} (hst : s.st ≠ .write) :
    (netFrame v k s).wreg = s.wreg := if_neg hst

theorem atFrameStart_netFrame (v : Byte) (k : Bit) {s : State} (h : atFrameStart s = true) :
    atFrameStart (netFrame v k s) = true := by
  obtain ⟨hc, -, ha⟩ := (atFrameStart_iff s).1 h
  exact (atFrameStart_iff _).2 ⟨hc, rfl, ha⟩

/-! ### The eight frames (rules R230 to R237) -/

section AddressByte
variable {s : State} (a : Addr7) (dir : Bit) (hst : s.st = .devAddr) (hrel : s.sdaRel = true)
include hst hrel

theorem wireByte_addrByte : wireByte (addrByte a dir) s = addrByte a dir :=
  wireByte_of_released _ (by simp [hst]) hrel

theorem addrMatch_atLsb_addrByte : addrMatch (atLsb (addrByte a dir) s) = (a == s.cfg.devAddr) := by
  rw [addrMatch, atLsb, wireByte_addrByte a dir hst hrel, addrByte_addr]

theorem dirFlag_atLsb_addrByte : dirFlag (atLsb (addrByte a dir) s) = dir := by
  rw [dirFlag, atLsb, wireByte_addrByte a dir hst hrel, addrByte_dir]

theorem readAddressed_atLsb_addrByte :
    readAddressed (atLsb (addrByte a dir) s) = (a == s.cfg.devAddr && dir) := by
  simp [readAddressed, hst, addrMatch_atLsb_addrByte a dir hst hrel, dirFlag_atLsb_addrByte a dir hst hrel]

theorem driveAck_atLsb_addrByte :
    driveAck (atLsb (addrByte a dir) s) = (a == s.cfg.devAddr && (dir || s.cfg.addrAckWrite)) := by
  simp [driveAck, Bool.beq_eq_decide_eq, hst, addrMatch_atLsb_addrByte a dir hst hrel,
    dirFlag_atLsb_addrByte a dir hst hrel]

/-- The net effect of an address byte, whose address and direction it is. -/
theorem netFrame_addrByte (k : Bit) : netFrame (addrByte a dir) k s = { s with
    envSda := k || driveAck (atLsb (addrByte a dir) s)
    st := if a = s.cfg.devAddr then (if dir = true then .read else .idxPtr) else .idle
    cnt := 0#4
    ptr := if ptrInc (atAck (addrByte a dir) k s) = true then s.ptr + 1#8 else s.ptr
    inSr := addrByte a dir
    outSr := preload (addrByte a dir) s <<< 1
    startDet := false
    startRst := false
    stopDet := false
    stopRst := false
    mack := !(k && !(a == s.cfg.devAddr && (dir || s.cfg.addrAckWrite)))
    sdaRel := if a = s.cfg.devAddr ∧ dir = true then (preload (addrByte a dir) s).getLsbD 7 else true
    update := List.replicate s.cfg.nw false
    capture := List.replicate s.cfg.nr false } := by
  have hpulse : pulseVector s.cfg.nw (s.st == .write) (writeSlot s) = List.replicate s.cfg.nw false := by
    rw [hst]
    exact pulseVector_false _ _
  have hcont : contRead (atAck (addrByte a dir) k s) = (a == s.cfg.devAddr && dir) := by
    simp [contRead, hst, readAddressed_atLsb_addrByte a dir hst hrel]
  rw [netFrame, hpulse, hcont]
  simp [hst, transition, wireByte_addrByte a dir hst hrel, addrMatch_atLsb_addrByte a dir hst hrel,
    dirFlag_atLsb_addrByte a dir hst hrel, driveAck_atLsb_addrByte a dir hst hrel]

end AddressByte

/-- Settles O44: the own address with direction 1 opens both gates and is acknowledged. -/
theorem addrReadFrame : Obligations.AddrReadFrame := by
  intro s k h hst hrel mid
  have hlsb := afterLsb_clockSlots (addrByte s.cfg.devAddr true) h
  rw [bitsOfByte_addrByte] at hlsb
  have hra : readAddressed (atLsb (addrByte s.cfg.devAddr true) s) = true := by
    simp [readAddressed_atLsb_addrByte, hst, hrel]
  have hack : driveAck (atLsb (addrByte s.cfg.devAddr true) s) = true := by
    simp [driveAck_atLsb_addrByte, hst, hrel]
  obtain ⟨hout, hdrive, hcap⟩ := hlsb.of_sending (.inr hra) hack
  refine ⟨hout, hdrive, hcap, _,
    congrArg Host.Outcome.next (clockFrame_addrSlots _ _ _ h), (netFrame_addrByte _ _ hst hrel k).trans ?_⟩
  rw [ptrInc_of_transfer k (.inl hra), preload_of_sending (.inr hra)]
  simp [addrByte]

/-- Settles O45: the own address with direction 0 is acknowledged as the parameter says. -/
theorem addrWriteFrame : Obligations.AddrWriteFrame := by
  intro s k h hst hrel mid slot d
  have hlsb := afterLsb_clockSlots (addrByte s.cfg.devAddr false) h
  rw [bitsOfByte_addrByte] at hlsb
  have hra : readAddressed (atLsb (addrByte s.cfg.devAddr false) s) = false := by
    simp [readAddressed_atLsb_addrByte, hst, hrel]
  have hack : driveAck (atLsb (addrByte s.cfg.devAddr false) s) = s.cfg.addrAckWrite := by
    simp [driveAck_atLsb_addrByte, hst, hrel]
  have hnr : s.st ≠ .read := by simp [hst]
  obtain ⟨hout, hdrive, hcap⟩ := hlsb.of_listening hnr hra hack
  refine ⟨hout, hdrive, hcap, _,
    congrArg Host.Outcome.next (clockFrame_addrSlots _ _ _ h), (netFrame_addrByte _ _ hst hrel k).trans ?_⟩
  rw [ptrInc_of_no_transfer k hra (.inr hst), preload_of_listening hnr hra]
  simp [addrByte, d]

/-- Settles O46: another address is not acknowledged in either direction. -/
theorem addrMismatchFrame : Obligations.AddrMismatchFrame := by
  intro s b r k h hst hrel hb mid slot d
  have hlsb := afterLsb_clockSlots (addrByte b r) h
  have hslots := clockSlots_take_sdaRel (addrByte b r) h
  rw [bitsOfByte_addrByte] at hlsb hslots
  have hra : readAddressed (atLsb (addrByte b r) s) = false := by
    simp [readAddressed_atLsb_addrByte, hst, hrel, hb]
  have hack : driveAck (atLsb (addrByte b r) s) = false := by
    simp [driveAck_atLsb_addrByte, hst, hrel, hb]
  have hnr : s.st ≠ .read := by simp [hst]
  obtain ⟨hout, hdrive, hcap⟩ := hlsb.of_listening hnr hra hack
  refine ⟨fun n => ?_, hout, hdrive, hcap, _,
    congrArg Host.Outcome.next (clockFrame_addrSlots _ _ _ h), (netFrame_addrByte _ _ hst hrel k).trans ?_⟩
  · rw [hslots, slotRel_of_released hnr hrel, hack]
    simp
  · rw [ptrInc_of_no_transfer k hra (.inr hst), preload_of_listening hnr hra]
    simp [addrByte, d, hb]

/-- The net effect of an index byte: any byte is the pointer. -/
theorem netFrame_idxPtr (v : Byte) (k : Bit) {s : State} (hst : s.st = .idxPtr) (hrel : s.sdaRel = true) :
    netFrame v k s = { s with
      envSda := k || driveAck (atLsb v s)
      st := .write
      cnt := 0#4
      ptr := v
      inSr := v
      outSr := preload v s <<< 1
      startDet := false
      startRst := false
      stopDet := false
      stopRst := false
      mack := true
      sdaRel := true
      update := List.replicate s.cfg.nw false
      capture := List.replicate s.cfg.nr false } := by
  have hra : readAddressed (atLsb v s) = false := readAddressed_of_not_devAddr (by simp [hst])
  have hack : driveAck (atLsb v s) = true := by simp [driveAck, hst]
  have hwire : wireByte v s = v := wireByte_of_released v (by simp [hst]) hrel
  simp [netFrame, hst, hwire, hack, transition, contRead, hra, pulseVector_false, Bool.beq_eq_decide_eq]

/-- Settles O47: in IDX_PTR every byte is acknowledged and becomes the pointer. -/
theorem indexFrame : Obligations.IndexFrame := by
  intro s v k h hst hrel mid slot d
  have hlsb := afterLsb_clockSlots v h
  have hra : readAddressed (atLsb v s) = false := readAddressed_of_not_devAddr (by simp [hst])
  have hack : driveAck (atLsb v s) = true := by simp [driveAck, hst]
  have hnr : s.st ≠ .read := by simp [hst]
  obtain ⟨hout, hdrive, hcap⟩ := hlsb.of_listening hnr hra hack
  refine ⟨hout, hdrive, hcap, _,
    congrArg Host.Outcome.next (frameNetEffect s v k h).1, (netFrame_idxPtr v k hst hrel).trans ?_⟩
  simp [preload_of_listening hnr hra, d]

/-- The net effect of a write-data byte: stored where the pointer maps, acknowledged anyway. -/
theorem netFrame_write (v : Byte) (k : Bit) {s : State} (hst : s.st = .write) (hrel : s.sdaRel = true) :
    netFrame v k s = { s with
      envSda := k || driveAck (atLsb v s)
      cnt := 0#4
      ptr := pointerAfter s.cfg s.ptr 1
      inSr := v
      outSr := preload v s <<< 1
      startDet := false
      startRst := false
      stopDet := false
      stopRst := false
      mack := true
      sdaRel := true
      wreg := storeBytes s.cfg s.ptr [v] s.wreg
      update := pulseVector s.cfg.nw true (writeSlot s)
      capture := List.replicate s.cfg.nr false } := by
  have hra : readAddressed (atLsb v s) = false := readAddressed_of_not_devAddr (by simp [hst])
  have hack : driveAck (atLsb v s) = true := by simp [driveAck, hst]
  have hwire : wireByte v s = v := wireByte_of_released v (by simp [hst]) hrel
  rw [netFrame, ptrInc_of_transfer k (.inr (.inr hst))]
  simp [hst, hwire, hack, transition, contRead, hra]

/-- The first CLK pulse of a frame ends the notification of the frame before (rules R28, R180). -/
theorem update_of_first_pulse {s : State} (h : atFrameStart s = true) :
    (driveClk false (driveClk true s)).update = List.replicate s.cfg.nw false := by
  obtain ⟨hc, h0, ha⟩ := (atFrameStart_iff s).1 h
  have hfall : AfterFall (driveClk true s) (driveClk false (driveClk true s)) :=
    driveClk_fall_spec ((asserted_driveClk true s).trans ha) (driveClk_clk true s)
  rw [hfall.update, nextUpdate, driveClk_rise ha hc]
  simp [writeStrobe, ackMark, h0, pulseVector_false]

/-- Settles O48: in WRITE every byte is acknowledged; the pulse is rewritten at the next falling edge. -/
theorem writeDataFrame : Obligations.WriteDataFrame := by
  intro s v k h hst hrel mid slot d
  have hlsb := afterLsb_clockSlots v h
  have hra : readAddressed (atLsb v s) = false := readAddressed_of_not_devAddr (by simp [hst])
  have hack : driveAck (atLsb v s) = true := by simp [driveAck, hst]
  have hnr : s.st ≠ .read := by simp [hst]
  obtain ⟨hout, hdrive, hcap⟩ := hlsb.of_listening hnr hra hack
  refine ⟨hout, hdrive, hcap, _,
    congrArg Host.Outcome.next (frameNetEffect s v k h).1, ?_, (netFrame_write v k hst hrel).trans ?_, ?_⟩
  · rw [netFrame_write v k hst hrel]
    exact pulsesAt_pulseVector s.cfg.nw true (writeSlot s)
  · cases hslot : slotOf s.cfg.wmap s.ptr with
    | none | some j => simp [preload_of_listening hnr hra, d, netFrame, hst, storeBytes, hslot]
  · exact update_of_first_pulse (atFrameStart_netFrame v k h)

/-- Settles O51: in IDLE nothing is acknowledged. -/
theorem idleFrameResult : Obligations.IdleFrameResult := by
  intro s v k h hst hrel mid slot d
  have hlsb := afterLsb_clockSlots v h
  have hra : readAddressed (atLsb v s) = false := readAddressed_of_not_devAddr (by simp [hst])
  have hack : driveAck (atLsb v s) = false := by simp [driveAck, hst, Bool.beq_eq_decide_eq]
  have hnr : s.st ≠ .read := by simp [hst]
  obtain ⟨hout, hdrive, hcap⟩ := hlsb.of_listening hnr hra hack
  refine ⟨fun n => ?_, hout, hdrive, hcap, _,
    congrArg Host.Outcome.next (frameNetEffect s v k h).1, ?_⟩
  · rw [clockSlots_take_sdaRel _ h, slotRel_of_released hnr hrel, hack]
    simp
  · rw [netFrame, ptrInc_of_no_transfer k hra (.inl hst)]
    simp [hst, wireByte_of_released v hnr hrel, preload_of_listening hnr hra, hack, transition, contRead, hra, d,
      pulseVector_false, Bool.beq_eq_decide_eq]

section ReadByte
variable {s : State} {d : Byte} (r : Byte) (hst : s.st = .read)
include hst

/-- The engine leaves the ack slot of a read byte to the master (rule R102). -/
theorem driveAck_atLsb_of_read : driveAck (atLsb r s) = false := by
  simp [driveAck, hst, Bool.beq_eq_decide_eq]

variable (hrel : s.sdaRel = d.getLsbD 7) (hout : s.outSr = d <<< 1)
include hrel hout

/-- Slot `n` carries bit `7 - n` of the byte being sent. -/
theorem readFrame_slots (h : atFrameStart s = true) {n : Nat} (hn : n < 8) :
    (clockSlots ((bitsOfByte r).take n) s).sdaRel = d.getLsbD (7 - n) := by
  rw [clockSlots_take_sdaRel r h, if_pos hn, slotRel_of_sending hst hrel hout hn]

/-- The net effect of a read-data byte: its ack slot decides whether the read goes on. -/
theorem netFrame_read (k : Bit) : netFrame r k s = { s with
    envSda := k || driveAck (atLsb r s)
    st := if k = true then .idle else .read
    cnt := 0#4
    ptr := pointerAfter s.cfg s.ptr 1
    inSr := d &&& r
    outSr := readByte s s.ptr <<< 1
    startDet := false
    startRst := false
    stopDet := false
    stopRst := false
    mack := !k
    sdaRel := if k = true then true else (readByte s s.ptr).getLsbD 7
    update := List.replicate s.cfg.nw false
    capture := List.replicate s.cfg.nr false } := by
  have hra : readAddressed (atLsb r s) = false := readAddressed_of_not_devAddr (by simp [hst])
  have hack : driveAck (atLsb r s) = false := driveAck_atLsb_of_read r hst
  rw [netFrame, ptrInc_of_transfer k (.inr (.inl hst)), wireByte_of_sending r hst hrel hout,
    preload_of_sending (.inl hst)]
  cases k <;> simp [hst, hack, hra, transition, contRead, pulseVector_false, Bool.beq_eq_decide_eq]

end ReadByte

/-- Settles O49: the read goes on. -/
theorem readDataAckFrame : Obligations.ReadDataAckFrame := by
  intro s d r h hst hrel hout mid
  have hack : driveAck (atLsb r s) = false := driveAck_atLsb_of_read r hst
  obtain ⟨hpre, hdrive, hcap⟩ := (afterLsb_clockSlots r h).of_sending (.inl hst) hack
  refine ⟨fun n => readFrame_slots r hst hrel hout h, hpre, hdrive, hcap, _,
    congrArg Host.Outcome.next (frameNetEffect s r false h).1, (netFrame_read r hst hrel hout false).trans ?_⟩
  simp [hst]

/-- Settles O50: the read ends. -/
theorem readDataNackFrame : Obligations.ReadDataNackFrame := by
  intro s d r h hst hrel hout mid
  have hack : driveAck (atLsb r s) = false := driveAck_atLsb_of_read r hst
  obtain ⟨hpre, hdrive, hcap⟩ := (afterLsb_clockSlots r h).of_sending (.inl hst) hack
  exact ⟨fun n => readFrame_slots r hst hrel hout h, hpre, hdrive, hcap, _,
    congrArg Host.Outcome.next (frameNetEffect s r true h).1, netFrame_read r hst hrel hout true⟩

end Sys2Proof.Machine

/-! # Proofs: transactions (44_transactions.md)

An idle bus, a START and a STOP; then transactions, frame by frame from their START. -/

namespace Sys2Proof.Machine

/-! ### An idle bus, and a START in the middle of a byte (rules R242, R244) -/

/-- Settles O7: an empty input is the step's idle branch. -/
theorem idleBusKeepsEverything : Obligations.IdleBusKeepsEverything := by
  intro s hc hin
  simp [step, hc, hin]

/-- Settles O56: a pending START masks both markers, so nothing is loaded and nothing stored. -/
theorem startAbandonsTheByte : Obligations.StartAbandonsTheByte := by
  intro s ha hc hd
  have hfall : AfterFall s (driveClk false s) := driveClk_fall_spec ha hc
  have hack : ackMark s = false := by simp [ackMark, hd]
  have hstrobe : writeStrobe s = false := by simp [writeStrobe, hack]
  have hload : loads s = false := not_loads_of_not_lsbMark (by simp [lsbMark, hd])
  refine ⟨_, rfl, ?_, ?_, ?_, ?_, ?_, ?_, ?_, hfall.inSr, hfall.outSr.trans (nextOut_of_not_loads hload)⟩
  · simp [hfall.st, nextSt, hd]
  · simp [hfall.cnt, nextCnt, hd]
  · simp [hfall.sdaRel, nextRel, hd]
  · simp [hfall.wreg, nextWreg, hstrobe]
  · rw [hfall.update, nextUpdate, hstrobe, pulseVector_false]
  · rw [hfall.capture, nextCapture, hload, pulseVector_false]
  · simp [hfall.ptr, nextPtr_eq, hack]

/-! ### After a STOP (rule R243) -/

/-- IDLE with the pointer at 0: what a consumed STOP leaves. -/
def stoppedIdle (s : State) : Prop := s.st = .idle ∧ s.ptr = 0x00#8

theorem stoppedIdle_fallingEdge {s : State} (h : stoppedIdle s) (hd : s.startDet = false)
    (hinc : s.cfg.idxInc ≠ .allButIdx) : stoppedIdle (fallingEdge s) := by
  obtain ⟨hst, hptr⟩ := h
  have hpi : ptrInc s = false := by
    rw [← Bool.not_eq_true, ptrInc_iff, readAddressed_iff]
    simp [hst, hinc]
  refine ⟨?_, ?_⟩
  · simp [nextSt_eq, hd, hst, transition]
  · simp [nextPtr_eq, hst, hptr, hpi]

theorem stoppedIdle_react {s0 s : State} (h : stoppedIdle s) (hd : s.startDet = false)
    (hinc : s.cfg.idxInc ≠ .allButIdx) : stoppedIdle (react s0 s) := by
  cases ha : asserted s with
  | true =>
    rw [react_asserted ha]
    exact ⟨rfl, rfl⟩
  | false =>
    have hclk : stoppedIdle (clkHandler s0.clk s) := by
      unfold clkHandler
      split
      · exact h
      · split
        · exact stoppedIdle_fallingEdge h hd hinc
        · exact h
    rw [react_running ha]
    obtain hdata | hdata | hdata := dataHandler_cases (sda s0) (clkHandler s0.clk s) <;> rw [hdata] <;> exact hclk

/-- Settles O55: the falling edge that consumes the STOP, and then every host event. -/
theorem repeatedStopsStayIdle : Obligations.RepeatedStopsStayIdle := by
  refine ⟨fun s ha hc hstop hstart => ?_, fun i s t hst hptr hd hinc hi h => ?_⟩
  · have hfall : AfterFall s (driveClk false s) := driveClk_fall_spec ha hc
    refine ⟨_, rfl, ?_, ?_⟩
    · simp [hfall.st, nextSt, hstart, hstop]
    · simp [hfall.ptr, nextPtr, hstop]
  · obtain ⟨c, e, r, l, rfl, -⟩ := exec_hostEvent hi h
    exact stoppedIdle_react (s := { s with clk := c, envSda := e, rst := r, rreg := l }) ⟨hst, hptr⟩ hd hinc

/-! ### Frames of a run (rules R238 to R240) -/

theorem pointerAfter_zero (c : Config) (p : Byte) : pointerAfter c p 0 = p := by simp [pointerAfter]

theorem pointerAfter_succ (c : Config) (p : Byte) (n : Nat) :
    pointerAfter c (pointerAfter c p 1) n = pointerAfter c p (n + 1) := by
  by_cases hinc : c.idxInc = .none
  · simp [pointerAfter, hinc]
  · simp [pointerAfter, hinc, BitVec.ofNat_add, BitVec.add_assoc, BitVec.add_comm (1#8)]

/-- A frame's opening edge comes once, with the frame or before it (log entry 8). -/
theorem clockFrame_openFrame (bits : List Bit) {s : State} (ha : asserted s = false) :
    clockFrame bits (openFrame s) = clockFrame bits s := by
  have hlow : openFrame (openFrame s) = openFrame s :=
    openFrame_low ((asserted_driveClk false s).trans ha) (driveClk_clk false s)
  rw [clockFrame, hlow, clockFrame]

/-! ### START and the address byte -/

/-- `u` is the start of the address byte after a START made in `s`. -/
structure AddressByteOpen (s u : State) : Prop where
  atStart : atFrameStart u = true
  st : u.st = .devAddr
  sdaRel : u.sdaRel = true
  ptr : u.ptr = if s.stopDet = true then 0x00#8 else s.ptr
  wreg : u.wreg = s.wreg
  rreg : u.rreg = s.rreg
  cfg : u.cfg = s.cfg

section Start
variable {s : State} (ha : asserted s = false) (hc : s.clk = true) (hw : sda s = true) (hr : s.startRst = false)
include ha hc hw hr

theorem applyInstr_start : applyInstr .start s = { s with envSda := false, startDet := true } := by
  have hfits : applyInstr .start s = driveSda false s := if_pos (dataEventFits_fall hc hw)
  simp [hfits, driveSda_fall ha hc hw, hr]

/-- START on an idle bus with the detector free, and the edge that opens the address byte: O56 says what
that edge leaves. -/
theorem addressByteOpen_of_start : AddressByteOpen s (openFrame (applyInstr .start s)) := by
  rw [applyInstr_start ha hc hw hr]
  generalize hu : ({ s with envSda := false, startDet := true } : State) = u
  have hua : asserted u = false := hu ▸ ha
  have huc : u.clk = true := hu ▸ hc
  have hfall : AfterFall u (openFrame u) := driveClk_fall_spec hua huc
  obtain ⟨t, ht, hst, hcnt, hrel, hwreg, -, -, hptr, -, -⟩ := startAbandonsTheByte u hua huc (hu ▸ rfl)
  injection ht with ht
  rw [← ht] at hst hcnt hrel hwreg hptr
  subst hu
  exact ⟨(atFrameStart_iff _).2 ⟨hfall.clk, hcnt, (asserted_driveClk _ _).trans ha⟩, hst, hrel, hptr, hwreg,
    hfall.rreg, hfall.cfg⟩

/-- A frame that follows a START is an address byte, opened. -/
theorem clockFrame_of_start (a : Addr7) (dir k : Bit) : clockFrame (addrSlots a dir k) (applyInstr .start s) =
    netFrame (addrByte a dir) k (openFrame (applyInstr .start s)) := by
  have ha1 : asserted (applyInstr .start s) = false := by
    rw [applyInstr_start ha hc hw hr]
    exact ha
  rw [← clockFrame_openFrame _ ha1]
  exact clockFrame_addrSlots a dir k (addressByteOpen_of_start ha hc hw hr).atStart

end Start

/-! ### Write transactions -/

/-- `t` is the start of a data byte after an own write address and the index `i`, sent from `s` on. -/
structure IndexWritten (i : Byte) (s t : State) : Prop where
  atStart : atFrameStart t = true
  st : t.st = .write
  sdaRel : t.sdaRel = true
  ptr : t.ptr = i
  wreg : t.wreg = s.wreg
  rreg : t.rreg = s.rreg
  cfg : t.cfg = s.cfg
  startDet : t.startDet = false
  stopDet : t.stopDet = false

/-- START, the write address, an index byte (rule R238). -/
theorem indexWritten_of_start {s : State} (k0 k1 : Bit) (i : Byte) (ha : asserted s = false) (hc : s.clk = true)
    (hw : sda s = true) (hr : s.startRst = false) :
    IndexWritten i s (runItems [.start, .addrW s.cfg.devAddr k0, .idx i k1] s) := by
  have h0 := addressByteOpen_of_start ha hc hw hr
  have haddr : applyInstr (.addrW s.cfg.devAddr k0) (applyInstr .start s) = _ :=
    clockFrame_of_start ha hc hw hr s.cfg.devAddr false k0
  rw [runItems_cons, runItems_cons, haddr]
  generalize openFrame (applyInstr .start s) = u at h0
  generalize ht : netFrame (addrByte s.cfg.devAddr false) k0 u = t
  have hat : atFrameStart t = true := ht ▸ atFrameStart_netFrame _ _ h0.atStart
  have hst : t.st = .idxPtr := by simp [← ht, netFrame_addrByte _ _ h0.st h0.sdaRel, h0.cfg]
  have hrel : t.sdaRel = true := by simp [← ht, netFrame_addrByte _ _ h0.st h0.sdaRel]
  have hidx : runItems [.idx i k1] t = netFrame i k1 t := (frameNetEffect t i k1 hat).1
  rw [hidx]
  constructor
  case atStart => exact atFrameStart_netFrame i k1 hat
  case st | sdaRel | ptr => rw [netFrame_idxPtr i k1 hst hrel]
  case wreg =>
    rw [netFrame_wreg_of_not_write _ _ (by simp [hst]), ← ht, netFrame_wreg_of_not_write _ _ (by simp [h0.st]),
      h0.wreg]
  case rreg | cfg | startDet | stopDet => simp [← ht, h0.rreg, h0.cfg]

/-- Data bytes stored one after the other from the pointer on, by induction on their list. -/
theorem runItems_wdata (k : Bit) (vs : List Byte) {s : State} (h : atFrameStart s = true) (hst : s.st = .write)
    (hrel : s.sdaRel = true) :
    let t := runItems (vs.map (fun v => .wdata v k)) s
    t.st = .write ∧ t.ptr = pointerAfter s.cfg s.ptr vs.length ∧ t.wreg = storeBytes s.cfg s.ptr vs s.wreg ∧
    t.cnt = 0#4 ∧ t.clk = false ∧ t.sdaRel = true ∧ t.rreg = s.rreg := by
  induction vs generalizing s with
  | nil =>
    obtain ⟨hc, h0, -⟩ := (atFrameStart_iff s).1 h
    exact ⟨hst, (pointerAfter_zero _ _).symm, rfl, h0, hc, hrel, rfl⟩
  | cons v vs ih =>
    have hv : applyInstr (.wdata v k) s = netFrame v k s := (frameNetEffect s v k h).1
    have hnet := netFrame_write v k hst hrel
    have hst' : (netFrame v k s).st = .write := by rw [hnet, hst]
    obtain ⟨h1, h2, h3, h4, h5, h6, h7⟩ := ih (atFrameStart_netFrame v k h) hst' (by rw [hnet])
    rw [List.map_cons, runItems_cons, hv]
    refine ⟨h1, h2.trans ?_, h3.trans ?_, h4, h5, h6, h7⟩
    · rw [hnet, pointerAfter_succ]
      rfl
    · rw [hnet]
      rfl

/-- Settles O52: the index byte sets the pointer, and every data byte after it is stored and moves it. -/
theorem writeTransaction : Obligations.WriteTransaction := by
  intro s k0 k1 k2 i vs ha hc hw hr
  have hidx := indexWritten_of_start k0 k1 i ha hc hw hr
  have hdata := runItems_wdata k2 vs hidx.atStart hidx.st hidx.sdaRel
  rwa [← runItems_append, hidx.ptr, hidx.wreg, hidx.rreg, hidx.cfg] at hdata

/-! ### Read transactions -/

/-- READ with the byte that `p` names on its way out, and the pointer past it (rule R235). -/
structure SendingFrom (p : Byte) (s : State) : Prop where
  atStart : atFrameStart s = true
  st : s.st = .read
  sdaRel : s.sdaRel = (readByte s p).getLsbD 7
  outSr : s.outSr = readByte s p <<< 1
  ptr : s.ptr = pointerAfter s.cfg p 1

/-- The frames in which a master reads `n + 1` bytes and does not acknowledge the last. -/
def readFrames (n : Nat) : List Instr := List.replicate n (.rdataA 0xFF#8) ++ [.rdataN 0xFF#8]

/-- A master that acknowledges gets the next byte (rule R235). -/
theorem SendingFrom.next {p : Byte} {s : State} (h : SendingFrom p s) :
    SendingFrom (pointerAfter s.cfg p 1) (netFrame 0xFF#8 false s) := by
  have hnet := netFrame_read 0xFF#8 h.st h.sdaRel h.outSr false
  have hread : readByte (netFrame 0xFF#8 false s) (pointerAfter s.cfg p 1) = readByte s s.ptr := by
    rw [readByte_congr (netFrame_cfg _ _ _) (netFrame_rreg _ _ _), h.ptr]
  constructor
  case atStart => exact atFrameStart_netFrame _ _ h.atStart
  case st => simp [hnet]
  case sdaRel =>
    rw [hread, hnet]
    rfl
  case outSr => rw [hread, hnet]
  case ptr => simp [hnet, h.ptr]

/-- A read, by induction on the number of acknowledged bytes. -/
theorem readFrames_deliver (n : Nat) {p : Byte} {s : State} (h : SendingFrom p s) :
    let t := runItems (readFrames n) s
    receivedBytes (readFrames n) s = (List.range (n + 1)).map (fun m => readByte s (pointerAfter s.cfg p m)) ∧
    t.st = .idle ∧ t.ptr = pointerAfter s.cfg p (n + 2) ∧ t.sdaRel = true ∧ t.wreg = s.wreg ∧
      t.rreg = s.rreg := by
  induction n generalizing p s with
  | zero =>
    have hlast : applyInstr (.rdataN 0xFF#8) s = netFrame 0xFF#8 true s := (frameNetEffect s _ true h.atStart).1
    have hnet := netFrame_read 0xFF#8 h.st h.sdaRel h.outSr true
    have hbytes : receivedBytes (readFrames 0) s = [(netFrame 0xFF#8 true s).inSr] := by
      rw [← hlast]
      rfl
    have hrun : runItems (readFrames 0) s = netFrame 0xFF#8 true s := hlast
    rw [hbytes, hrun, hnet]
    refine ⟨?_, rfl, ?_, rfl, rfl, rfl⟩
    · simpa [pointerAfter_zero] using BitVec.and_allOnes (x := readByte s p)
    · rw [h.ptr, pointerAfter_succ]
  | succ n ih =>
    have hfirst : applyInstr (.rdataA 0xFF#8) s = netFrame 0xFF#8 false s := (frameNetEffect s _ false h.atStart).1
    have hnet := netFrame_read 0xFF#8 h.st h.sdaRel h.outSr false
    obtain ⟨hbytes, hst, hptr, hrel, hwreg, hrreg⟩ := ih h.next
    have hrun : runItems (readFrames (n + 1)) s = runItems (readFrames n) (netFrame 0xFF#8 false s) := by
      rw [← hfirst]
      rfl
    have hrecv : receivedBytes (readFrames (n + 1)) s =
        (netFrame 0xFF#8 false s).inSr :: receivedBytes (readFrames n) (netFrame 0xFF#8 false s) := by
      rw [← hfirst]
      rfl
    have hin : (netFrame 0xFF#8 false s).inSr = readByte s p := by
      rw [hnet]
      exact BitVec.and_allOnes
    rw [hrun, hrecv, hbytes, hin]
    refine ⟨?_, hst, ?_, hrel, hwreg.trans (netFrame_wreg_of_not_write _ _ (by simp [h.st])), hrreg⟩
    · have hread : ∀ q, readByte (netFrame 0xFF#8 false s) q = readByte s q := readByte_congr rfl rfl
      simp only [hread, netFrame_cfg, pointerAfter_succ]
      conv_rhs => rw [List.range_succ_eq_map, List.map_cons, List.map_map, pointerAfter_zero]
      rfl
    · rw [hptr, netFrame_cfg, pointerAfter_succ]

/-- START and the read address (rule R239): the byte the pointer names is on its way. -/
theorem sendingFrom_of_start {s : State} (k : Bit) (ha : asserted s = false) (hc : s.clk = true)
    (hw : sda s = true) (hr : s.startRst = false) :
    let u := runItems [.start, .addrR s.cfg.devAddr k] s
    SendingFrom (if s.stopDet = true then 0x00#8 else s.ptr) u ∧ u.cfg = s.cfg ∧ u.rreg = s.rreg ∧
      u.wreg = s.wreg := by
  have h0 := addressByteOpen_of_start ha hc hw hr
  have haddr : applyInstr (.addrR s.cfg.devAddr k) (applyInstr .start s) = _ :=
    clockFrame_of_start ha hc hw hr s.cfg.devAddr true k
  rw [runItems_cons, runItems_cons, runItems_nil, haddr, ← h0.ptr]
  generalize openFrame (applyInstr .start s) = u at h0
  have hra : readAddressed (atLsb (addrByte s.cfg.devAddr true) u) = true := by
    simp [readAddressed_atLsb_addrByte _ _ h0.st h0.sdaRel, h0.cfg]
  have hnet := netFrame_addrByte s.cfg.devAddr true h0.st h0.sdaRel k
  rw [ptrInc_of_transfer k (.inl hra), preload_of_sending (.inr hra)] at hnet
  have hread : readByte (netFrame (addrByte s.cfg.devAddr true) k u) u.ptr = readByte u u.ptr :=
    readByte_congr (netFrame_cfg _ _ _) (netFrame_rreg _ _ _) _
  refine ⟨?_, h0.cfg, h0.rreg, (netFrame_wreg_of_not_write _ _ (by simp [h0.st])).trans h0.wreg⟩
  constructor
  case atStart => exact atFrameStart_netFrame _ _ h0.atStart
  case st => simp [hnet, h0.cfg]
  case sdaRel =>
    rw [hread]
    simp [hnet, h0.cfg]
  case outSr => rw [hread, hnet]
  case ptr => rw [hnet]

/-- Settles O53: the address byte preloads the first byte, and the read delivers from there. -/
theorem readTransaction : Obligations.ReadTransaction := by
  intro s k n ha hc hw hr p u reads t
  obtain ⟨hsend, hcfg, hrreg, hwreg⟩ := sendingFrom_of_start k ha hc hw hr
  have hreads := readFrames_deliver n hsend
  rw [hcfg, hrreg, hwreg] at hreads
  simp only [readByte_congr hcfg hrreg] at hreads
  exact hreads

/-! ### Combined transactions -/

/-- The line events before a repeated START (rule R240): DATA released with CLK low, then CLK raised. No
condition is pending, so the bus is idle again and the detectors are free. -/
theorem idleBus_of_release {s : State} (h : atFrameStart s = true) (hrel : s.sdaRel = true)
    (hstart : s.startDet = false) (hstop : s.stopDet = false) :
    let r := runItems [.envSda true, .envClk true] s
    asserted r = false ∧ r.clk = true ∧ sda r = true ∧ r.startRst = false ∧ r.stopDet = false ∧
      r.ptr = s.ptr ∧ r.cfg = s.cfg ∧ r.rreg = s.rreg ∧ r.wreg = s.wreg := by
  obtain ⟨hc, -, ha⟩ := (atFrameStart_iff s).1 h
  have hsda : driveSda true s = { s with envSda := true } := by
    rw [driveSda_running true ha]
    exact dataHandler_quiet _ hc hstart hstop
  have ha' : asserted { s with envSda := true } = false := ha
  have hrun : runItems [.envSda true, .envClk true] s = driveClk true (driveSda true s) := rfl
  rw [hrun, hsda, driveClk_rise ha' hc]
  exact ⟨ha, rfl, (sda_high_iff _).2 ⟨rfl, hrel⟩, hstart, rfl, rfl, rfl, rfl, rfl⟩

/-- Settles O54: the index byte leaves the pointer from which the read of O53 starts. -/
theorem combinedTransaction : Obligations.CombinedTransaction := by
  intro s k0 k1 k2 i n ha hc hw hr u reads t
  have hidx := indexWritten_of_start k0 k1 i ha hc hw hr
  have hrun : u = runItems [.start, .addrR s.cfg.devAddr k2]
      (runItems [.envSda true, .envClk true] (runItems [.start, .addrW s.cfg.devAddr k0, .idx i k1] s)) := by
    rw [← runItems_append, ← runItems_append]
    rfl
  obtain ⟨hra, hrc, hrw, hrr, hstop, hptr, hcfg, hrreg, hwreg⟩ :=
    idleBus_of_release hidx.atStart hidx.sdaRel hidx.startDet hidx.stopDet
  rw [hidx.ptr] at hptr
  rw [hidx.cfg] at hcfg
  rw [hidx.rreg] at hrreg
  rw [hidx.wreg] at hwreg
  have hread := readTransaction _ k2 n hra hrc hrw hrr
  rw [hstop, hptr, hcfg, hwreg, ← hrun] at hread
  simp only [readByte_congr hcfg hrreg] at hread
  obtain ⟨hbytes, hst, hend, -, hkept, -⟩ := hread
  exact ⟨hbytes, hst, hend, hkept⟩

end Sys2Proof.Machine

/-! # Proofs: reset and hazards (70_reset_and_hazards.md)

Reset held and reset ended; a Booted run and its power-up draw; a well-formed master and the slots the
engine drives. -/

namespace Sys2Proof.Machine

/-! ### Reset held and reset ended (rules R291, R293, R294) -/

/-- Settles O36: every event runs the reset override, which leaves registers at their reset values. -/
theorem resetHeldIgnoresEvents : Obligations.ResetHeldIgnoresEvents := by
  intro s ha hheld
  have hs : resetRegisters s = s := ((heldInReset_iff s).1 hheld ha).symm
  refine ⟨fun v => ?_, fun v => ?_, ?_, fun k v hk => ?_⟩
  · have hclk : driveClk v s = { resetRegisters s with clk := v } := react_asserted (s := { s with clk := v }) ha
    rw [hs] at hclk
    exact congrArg _ hclk
  · have hsda : driveSda v s = { resetRegisters s with envSda := v } :=
      react_asserted (s := { s with envSda := v }) ha
    rw [hs] at hsda
    exact congrArg _ hsda
  · exact congrArg _ ((react_asserted ha : driveRst s.rst s = resetRegisters s).trans hs)
  · rw [exec_rreg_of_lt v hk, applyRreg_eq_setRreg k.toNat v hheld, setRreg]

/-- Settles O37: at the inactive level no handler runs, whatever the level was before. -/
theorem resetDeassertionResult : Obligations.ResetDeassertionResult := fun _ =>
  congrArg Host.Outcome.next (driveRst_running _ (not_asserted_of_inactiveLevel rfl))

/-! ### The bus view at the edges of CLK (rules R96, R97, R102) -/

/-- The direction bit is sampled in the last data slot of the address byte only, and the acknowledge in the
ack slot only. -/
theorem clkRose_eq (d : Bit) (b : BusView) : b.clkRose d = { b with
    reading := if b.pos = 7 ∧ b.first = true then d else b.reading
    acked := if b.pos = 8 then !d else b.acked } := by
  unfold BusView.clkRose
  by_cases h7 : b.pos = 7 ∧ b.first = true
  · simp [h7]
  · by_cases h8 : b.pos = 8 <;> simp [h7, h8]

@[simp] theorem clkRose_busy (d : Bit) (b : BusView) : (b.clkRose d).busy = b.busy := by rw [clkRose_eq]
@[simp] theorem clkRose_fresh (d : Bit) (b : BusView) : (b.clkRose d).fresh = b.fresh := by rw [clkRose_eq]
@[simp] theorem clkRose_pos (d : Bit) (b : BusView) : (b.clkRose d).pos = b.pos := by rw [clkRose_eq]
@[simp] theorem clkRose_first (d : Bit) (b : BusView) : (b.clkRose d).first = b.first := by rw [clkRose_eq]

theorem clkRose_reading (d : Bit) (b : BusView) :
    (b.clkRose d).reading = if b.pos = 7 ∧ b.first = true then d else b.reading := by rw [clkRose_eq]

theorem clkRose_acked (d : Bit) (b : BusView) : (b.clkRose d).acked = if b.pos = 8 then !d else b.acked := by
  rw [clkRose_eq]

/-- Below the ack slot a fall of CLK opens the next slot of the same byte. -/
theorem clkFell_of_lt {b : BusView} (hf : b.fresh = false) (hp : b.pos < 8) :
    b.clkFell = { b with pos := b.pos + 1 } := by
  simp [BusView.clkFell, hf, hp]

/-- After the ack slot a fall of CLK opens a byte that is not the address byte. -/
theorem clkFell_of_ack {b : BusView} (hf : b.fresh = false) (hp : b.pos = 8) :
    b.clkFell = { b with pos := 0, first := false } := by
  simp [BusView.clkFell, hf, hp]

/-- The first fall of CLK after a START opens the address byte. -/
theorem clkFell_of_fresh {b : BusView} (hf : b.fresh = true) : b.clkFell =
    { b with fresh := false, pos := 0, first := true, reading := false, acked := false } := by
  simp [BusView.clkFell, hf]

theorem boundary_iff (b : BusView) :
    b.boundary = true ↔ b.busy = true ∧ b.fresh = false ∧ b.first = false ∧ b.pos = 0 := by
  simp [BusView.boundary, and_assoc]

/-- DATA falls with CLK high: a START on the wire (rule R133). -/
theorem busView_next_start {s t : State} (b : BusView) (hs : s.clk = true) (ht : t.clk = true)
    (hhigh : sda s = true) (hlow : sda t = false) : b.next s t = { b with busy := true, fresh := true } := by
  simp [BusView.next, hs, ht, hhigh, hlow]

/-- DATA rises with CLK high: a STOP on the wire (rule R135). -/
theorem busView_next_stop {s t : State} (b : BusView) (hs : s.clk = true) (ht : t.clk = true)
    (hlow : sda s = false) (hhigh : sda t = true) : b.next s t = { b with busy := false, fresh := false } := by
  simp [BusView.next, hs, ht, hhigh, hlow]

/-! ### A participating engine is in step with the bus -/

/-- The engine takes part in the transfer and counts it as the bus does: the same slot of the same kind of
byte, with the direction bit and the acknowledges that the wire has shown so far. -/
structure InStep (b : BusView) (s : State) : Prop where
  busy : b.busy = true
  fresh : b.fresh = false
  pos : b.pos = s.cnt.toNat
  first : b.first = true ↔ s.st = .devAddr
  /-- In the last data slot of the address byte the direction has been sampled once CLK is high. -/
  direction : s.st = .devAddr → s.cnt = 7#4 → s.clk = true → b.reading = dirFlag s
  /-- The engine drives the ack slot of its own read address. -/
  addressed : s.cnt = 8#4 → readAddressed s = true → b.reading = true ∧ s.sdaRel = false
  reading : s.st = .read → b.reading = true
  /-- The byte before a read byte was acknowledged. -/
  goesOn : s.st = .read → s.cnt ≠ 8#4 → b.acked = true
  /-- The engine goes on sending only after an acknowledge that the bus has seen too. -/
  acked : s.cnt = 8#4 → s.clk = true → contRead s = true → b.acked = true

/-- A STOP that the engine meets here leaves DATA released at the next falling edge: outside rule R310's
windows 1 and 2. -/
def stopReleases (s : State) : Prop := s.startDet = true ∨ s.st = .idle ∨ (s.cnt = 0#4 ∧ s.st ≠ .read)

/-- What a well-formed master's moves keep (rules R209, R299, R311). While a condition is pending in a
high phase, the engine is about to leave the transfer it took part in. -/
structure MasterInv (b : BusView) (s : State) : Prop where
  cnt_le : s.cnt ≤ 8#4
  driven : s.sdaRel = false → engineSlot s = true
  startLow : s.clk = false → s.startDet = true → s.cnt = 0#4
  startHigh : s.clk = true → s.startDet = true → b.busy = true ∧ b.fresh = true
  stopHigh : s.clk = true → s.stopDet = true → stopReleases s
  inStep : s.st ≠ .idle → ¬(s.clk = true ∧ (s.startDet = true ∨ s.stopDet = true)) → InStep b s

/-- Whatever the bus is doing, reset takes the engine out of it. -/
theorem masterInv_of_asserted (b : BusView) {s : State} (ha : asserted s = true) (hheld : heldInReset s = true) :
    MasterInv b s := by
  rw [(heldInReset_iff s).1 hheld ha]
  constructor <;> simp

/-! ### CLK rises -/

theorem contRead_cases {s : State} (h : contRead s = true) :
    readAddressed s = true ∨ (s.st = .read ∧ s.mack = true) := by
  simpa [contRead, or_comm] using h

/-- Where a pending START has put the counter to 0, it masks no ack marker. -/
theorem ackMark_iff_of_startLow {s : State} (hstart : s.startDet = true → s.cnt = 0#4) :
    ackMark s = true ↔ s.cnt = 8#4 := by
  refine (ackMark_iff s).trans ⟨And.left, fun h8 => ⟨h8, ?_⟩⟩
  rw [← Bool.not_eq_true]
  intro hd
  simp [hstart hd] at h8

/-- A rising edge samples the wire for the engine and for the bus alike. -/
theorem InStep.rise {b : BusView} {s : State} (h : InStep b s) (hstart : s.startDet = true → s.cnt = 0#4) :
    InStep (b.clkRose (sda s)) (risingEdge (sda s) { s with clk := true }) := by
  have hpos : ∀ n : BitVec 4, s.cnt = n → b.pos = n.toNat := fun n hn => hn ▸ h.pos
  have hack : ackMark { s with clk := true } = true ↔ s.cnt = 8#4 := ackMark_iff_of_startLow hstart
  have haddr : s.cnt = 8#4 → readAddressed (risingEdge (sda s) { s with clk := true }) = readAddressed s :=
    fun h8 => readAddressed_congr rfl (by simp [hack.2 h8]) rfl
  constructor
  case busy => simpa using h.busy
  case fresh => simpa using h.fresh
  case pos => simpa using h.pos
  case first => simpa using h.first
  case direction =>
    intro hst h7 _
    have hno : ackMark { s with clk := true } = false := by
      rw [← Bool.not_eq_true, hack, show s.cnt = 7#4 from h7]; decide
    rw [clkRose_reading, if_pos ⟨hpos _ h7, h.first.2 hst⟩, dirFlag, risingEdge_inSr, hno]
    exact (shl_getLsbD_zero s.inSr (sda s)).symm
  case addressed =>
    intro h8 hra
    rw [haddr h8] at hra
    rw [clkRose_reading, hpos _ h8]
    exact h.addressed h8 hra
  case reading =>
    intro hst
    have hfirst : ¬b.first = true := fun hf => by simp [h.first.1 hf] at hst
    rw [clkRose_reading, if_neg fun hb => hfirst hb.2]
    exact h.reading hst
  case goesOn =>
    intro hst h8
    have hp8 : b.pos ≠ 8 := fun hp => h8 (BitVec.eq_of_toNat_eq (h.pos.symm.trans hp))
    rw [clkRose_acked, if_neg hp8]
    exact h.goesOn hst h8
  case acked =>
    intro h8 _ hcont
    have hp8 : b.pos = 8 := hpos _ h8
    rw [clkRose_acked, if_pos hp8]
    obtain hra | ⟨-, hmack⟩ := contRead_cases hcont
    · rw [haddr h8] at hra
      simp [sda, (h.addressed h8 hra).2]
    · simpa [hack.2 h8] using hmack

/-- The slots of rule R209 read the received byte only in the ack slot. -/
theorem engineSlot_congr {s t : State} (hst : t.st = s.st) (hcnt : t.cnt = s.cnt) (hcfg : t.cfg = s.cfg)
    (hin : s.cnt = 8#4 → t.inSr = s.inSr) : engineSlot t = engineSlot s := by
  by_cases h8 : s.cnt = 8#4
  · simp only [engineSlot, addrMatch, dirFlag, hst, hcnt, hcfg, hin h8]
  · have hno : (s.cnt == 8#4) = false := beq_false_of_ne h8
    simp only [engineSlot, hst, hcnt, hno, Bool.false_and]

theorem masterInv_rise {b : BusView} {s : State} (h : MasterInv b s) (ha : asserted s = false)
    (hc : s.clk = false) : MasterInv (b.clkRose (sda s)) (driveClk true s) := by
  rw [driveClk_rise ha hc]
  constructor
  case cnt_le => exact h.cnt_le
  case driven =>
    intro hlow
    have hslot : engineSlot (risingEdge (sda s) { s with clk := true }) = engineSlot s :=
      engineSlot_congr rfl rfl rfl fun h8 => by
        simp [(ackMark_iff_of_startLow (s := { s with clk := true }) (h.startLow hc)).2 h8]
    exact hslot.trans (h.driven hlow)
  case startLow => simp
  case startHigh => simp
  case stopHigh => simp
  case inStep =>
    intro hst _
    exact (h.inStep hst (by simp [hc])).rise (h.startLow hc)

/-! ### CLK falls -/

/-- The table goes to READ only where the engine transmits next (rules R171, R206). -/
theorem contRead_of_transition {s : State} (h : transition s.st (addrMatch s) (dirFlag s) s.mack = .read) :
    contRead s = true := by
  cases hst : s.st with
  | devAddr =>
    cases hmatch : addrMatch s <;> cases hdir : dirFlag s <;> simp [transition, hst, hmatch, hdir] at h
    simp [contRead, readAddressed, hst, hmatch, hdir]
  | read =>
    have hmack : s.mack = true := by simpa [transition, hst] using h
    simp [contRead, hst, hmack]
  | idle | idxPtr | write => simp [transition, hst] at h

/-- The table never leads to DEV_ADDR: only a START does (rule R171). -/
theorem transition_ne_devAddr (st : ProtoState) (hit dir acked : Bit) :
    transition st hit dir acked ≠ .devAddr := by
  cases st with
  | devAddr => cases hit <;> cases dir <;> simp [transition]
  | read => cases acked <;> simp [transition]
  | idle | idxPtr | write => simp [transition]

/-- A falling edge with no condition pending opens the next slot for the engine and for the bus alike. -/
theorem InStep.fall {b : BusView} {s t : State} (h : InStep b s) (hfall : AfterFall s t) (hle : s.cnt ≤ 8#4)
    (hc : s.clk = true) (hstart : s.startDet = false) (hstop : s.stopDet = false) :
    InStep b.clkFell t := by
  have hin : t.inSr = s.inSr := by simp [hfall.inSr, nextInFall, hstop]
  by_cases h8 : s.cnt = 8#4
  · have hcnt : t.cnt = 0#4 := by simp [hfall.cnt, nextCnt_eq, h8]
    have htable : t.st = transition s.st (addrMatch s) (dirFlag s) s.mack := by
      simp [hfall.st, nextSt_eq, hstart, hstop, h8]
    have hread : t.st = .read → contRead s = true := fun hr => contRead_of_transition (htable.symm.trans hr)
    rw [clkFell_of_ack h.fresh (by rw [h.pos, h8]; rfl)]
    constructor
    case busy => exact h.busy
    case fresh => exact h.fresh
    case pos => simp [hcnt]
    case first => simpa using fun hdev => transition_ne_devAddr _ _ _ _ (htable.symm.trans hdev)
    case direction => simp [hcnt]
    case addressed => simp [hcnt]
    case reading =>
      intro hr
      obtain hra | ⟨hr', -⟩ := contRead_cases (hread hr)
      · exact (h.addressed h8 hra).1
      · exact h.reading hr'
    case goesOn => exact fun hr _ => h.acked h8 hc (hread hr)
    case acked => simp [hcnt]
  · have hcnt : t.cnt = s.cnt + 1#4 := by simp [hfall.cnt, nextCnt_eq, h8, hstart]
    have hst' : t.st = s.st := hfall.st.trans (nextSt_of_no_condition hstart hstop h8)
    have hlt : s.cnt.toNat < 8 := by bv_omega
    have h7 : t.cnt = 8#4 → s.cnt = 7#4 := fun ht => by bv_omega
    rw [clkFell_of_lt h.fresh (h.pos ▸ hlt)]
    constructor
    case busy => exact h.busy
    case fresh => exact h.fresh
    case pos =>
      show b.pos + 1 = t.cnt.toNat
      rw [h.pos, hcnt]
      bv_omega
    case first => exact hst' ▸ h.first
    case direction => simp [hfall.clk]
    case addressed =>
      intro ht8 hra
      rw [readAddressed_congr hst' hin hfall.cfg] at hra
      obtain ⟨hdev, hmatch, hdir⟩ := (readAddressed_iff s).1 hra
      have hack : driveAck s = true := (driveAck_iff s).2 (.inl ⟨⟨hdev, hmatch⟩, .inl hdir⟩)
      refine ⟨(h.direction hdev (h7 ht8) hc).trans hdir, ?_⟩
      simp [hfall.sdaRel, nextRel_eq, hstart, h7 ht8, hack]
    case reading => exact fun hr => h.reading (hst' ▸ hr)
    case goesOn => exact fun hr _ => h.goesOn (hst' ▸ hr) h8
    case acked => simp [hfall.clk]

/-- A STOP in its place leaves no drive behind. -/
theorem nextRel_of_stopReleases {s : State} (h : stopReleases s) : nextRel s = true := by
  by_contra hlow
  obtain ⟨hstart, hcase⟩ := nextRel_low_cases (by simpa using hlow)
  obtain hd | hidle | ⟨h0, hread⟩ := h
  · simp [hd] at hstart
  · simp [driveAck_iff, contRead_iff, hidle] at hcase
  · simp [h0, hread] at hcase

theorem masterInv_fall {b : BusView} {s : State} (h : MasterInv b s) (ha : asserted s = false)
    (hc : s.clk = true) : MasterInv b.clkFell (driveClk false s) := by
  have hfall : AfterFall s (driveClk false s) := driveClk_fall_spec ha hc
  constructor
  case cnt_le => exact hfall.cnt ▸ nextCnt_le h.cnt_le
  case driven =>
    intro hlow
    cases hstop : s.stopDet with
    | false => exact (engineSlot_of_driven hfall h.cnt_le hstop hlow).1
    | true => simp [hfall.sdaRel, nextRel_of_stopReleases (h.stopHigh hc hstop)] at hlow
  case startLow =>
    intro _ hd
    rw [hfall.startDet] at hd
    have hstart : s.startDet = true := by
      split at hd
      · cases hd
      · exact hd
    simp [hfall.cnt, nextCnt_eq, hstart]
  case startHigh => simp
  case stopHigh => simp
  case inStep =>
    intro hst _
    cases hstart : s.startDet with
    | true =>
      obtain ⟨hbusy, hfresh⟩ := h.startHigh hc hstart
      have hdev : (driveClk false s).st = .devAddr := by simp [hfall.st, nextSt, hstart]
      have h0 : (driveClk false s).cnt = 0#4 := by simp [hfall.cnt, nextCnt, hstart]
      rw [clkFell_of_fresh hfresh]
      constructor <;> simp [hbusy, hdev, h0]
    | false =>
      cases hstop : s.stopDet with
      | true => simp [hfall.st, nextSt, hstart, hstop] at hst
      | false =>
        have hin : s.st ≠ .idle := by
          intro hidle
          simp [hfall.st, nextSt_eq, hstart, hstop, hidle, transition] at hst
        exact (h.inStep hin (by simp [hstart, hstop])).fall hfall h.cnt_le hc hstart hstop

/-! ### DATA changes -/

/-- Being in step reads neither the environment's line nor the detectors. -/
theorem InStep.withDetectors {b : BusView} {s : State} (h : InStep b s) (v x y : Bit) :
    InStep b { s with envSda := v, startDet := x, stopDet := y } :=
  ⟨h.busy, h.fresh, h.pos, h.first, h.direction, h.addressed, h.reading, h.goesOn, h.acked⟩

/-- With CLK low a DATA change is a data bit, to the bus and to the engine. -/
theorem masterInv_dataBit {b : BusView} {s : State} (h : MasterInv b s) (v : Bit) (ha : asserted s = false)
    (hc : s.clk = false) : MasterInv b (driveSda v s) := by
  have hno : s.startDet = false → (driveSda v s).startDet = false := fun hd => driveSda_no_start v ha hd (.inr hc)
  obtain ⟨x, y, hu⟩ := driveSda_spec v ha
  rw [hu] at hno ⊢
  constructor
  case cnt_le => exact h.cnt_le
  case driven => exact h.driven
  case startLow =>
    intro _ hx
    refine h.startLow hc ?_
    cases hd : s.startDet with
    | true => rfl
    | false => exact (hno hd).symm.trans hx
  case startHigh => simp [hc]
  case stopHigh => simp [hc]
  case inStep => exact fun hst _ => (h.inStep hst (by simp [hc])).withDetectors v x y

/-- A START that the engine sees is one that the bus sees. -/
theorem masterInv_start {b : BusView} {s : State} (h : MasterInv b s) (hc : s.clk = true) :
    MasterInv { b with busy := true, fresh := true } { s with envSda := false, startDet := true } := by
  constructor
  case cnt_le => exact h.cnt_le
  case driven => exact h.driven
  case startLow => simp [hc]
  case startHigh => simp
  case stopHigh => exact fun _ _ => .inl rfl
  case inStep => simp [hc]

/-- A STOP at a byte boundary that no read byte follows finds the engine in IDLE or before a byte that it
receives. -/
theorem MasterInv.stopReleases {b : BusView} {s : State} (h : MasterInv b s) (hc : s.clk = true)
    (hbound : b.boundary = true) (hread : b.readGoesOn = false) : stopReleases s := by
  obtain ⟨-, hfresh, -, hpos⟩ := (boundary_iff b).1 hbound
  have hstart : ¬s.startDet = true := fun hd => by simpa [hfresh] using h.startHigh hc hd
  by_cases hstop : s.stopDet = true
  · exact h.stopHigh hc hstop
  by_cases hidle : s.st = .idle
  · exact .inr (.inl hidle)
  have hin : InStep b s := h.inStep hidle (by simp [hstart, hstop])
  have h0 : s.cnt = 0#4 := BitVec.eq_of_toNat_eq (hin.pos.symm.trans hpos)
  refine .inr (.inr ⟨h0, fun hr => ?_⟩)
  simp [BusView.readGoesOn, hin.reading hr, hin.goesOn hr (by simp [h0])] at hread

theorem masterInv_stop {b : BusView} {s : State} (h : MasterInv b s) (hc : s.clk = true)
    (hbound : b.boundary = true) (hread : b.readGoesOn = false) :
    MasterInv { b with busy := false, fresh := false } { s with envSda := true, stopDet := true } := by
  obtain ⟨-, hfresh, -, -⟩ := (boundary_iff b).1 hbound
  constructor
  case cnt_le => exact h.cnt_le
  case driven => exact h.driven
  case startLow => simp [hc]
  case startHigh => exact fun _ hd => absurd (h.startHigh hc hd).2 (by simp [hfresh])
  case stopHigh => exact fun _ _ => h.stopReleases hc hbound hread
  case inStep => simp [hc]

/-! ### A well-formed master's moves (rule R299) -/

theorem mayMakeCondition_iff (b : BusView) (v : Bit) (s : State) : mayMakeCondition b v s = true ↔
    s.sdaRel = true ∧ (b.boundary = true ∨ (v = false ∧ b.busy = false)) ∧
      (b.busy = true → b.readGoesOn = false) ∧ s.startRst = false ∧ s.stopRst = false := by
  cases hb : b.busy <;> simp [mayMakeCondition, hb, and_assoc]

/-- A DATA change with CLK high is a START or a STOP in its place. -/
theorem masterInv_condition {b : BusView} {s : State} {v : Bit} (h : MasterInv b s) (ha : asserted s = false)
    (hc : s.clk = true) (hv : v ≠ s.envSda) (hmay : mayMakeCondition b v s = true) :
    MasterInv (b.next s (driveSda v s)) (driveSda v s) := by
  obtain ⟨hrel, hplace, hread, hstartRst, hstopRst⟩ := (mayMakeCondition_iff b v s).1 hmay
  cases v with
  | false =>
    have he : s.envSda = true := by simpa using hv
    have hhigh : sda s = true := (sda_high_iff s).2 ⟨he, hrel⟩
    have hfall : driveSda false s = { s with envSda := false, startDet := true } := by
      simp [driveSda_fall ha hc hhigh, hstartRst]
    have hview : b.next s (driveSda false s) = { b with busy := true, fresh := true } := by
      rw [hfall]
      exact busView_next_start b hc hc hhigh (sda_low_of_envSda rfl)
    rw [hview, hfall]
    exact masterInv_start h hc
  | true =>
    have he : s.envSda = false := by simpa using hv
    have hlow : sda s = false := sda_low_of_envSda he
    have hrise : driveSda true s = { s with envSda := true, stopDet := true } := by
      simp [driveSda_rise ha hc he hrel, hstopRst]
    have hview : b.next s (driveSda true s) = { b with busy := false, fresh := false } := by
      rw [hrise]
      exact busView_next_stop b hc hc hlow ((sda_high_iff _).2 ⟨rfl, hrel⟩)
    have hbound : b.boundary = true := hplace.resolve_right (by simp)
    rw [hview, hrise]
    exact masterInv_stop h hc hbound (hread ((boundary_iff b).1 hbound).1)

theorem applyInstr_rreg {s : State} {k : Byte} (v : Byte) (h : k.toNat < s.cfg.nr) :
    applyInstr (.rreg k v) s = applyRreg k.toNat v s := by
  rw [applyInstr, exec_rreg_of_lt v h]

/-- A well-formed master's moves are well-formed host events. -/
theorem masterMay_event {b : BusView} {m : MasterMove} {s : State} (h : masterMay b m s = true) :
    EventStep s (applyInstr m.event s) := by
  obtain ⟨i, intent⟩ := m
  cases i with
  | envClk _ | envSda _ | rst _ => exact applyInstr_event rfl rfl
  | rreg k v => exact applyInstr_event rfl h
  | clkRise _ | clkFall _ | start | dataFallL | stop | dataRiseL => cases h
  | addrR _ _ | addrW _ _ | addrNm _ _ _ | idx _ _ | wdata _ _ => cases h
  | rdataA _ | rdataN _ | idleFrame _ _ => cases h

/-- The invariant reads neither the reset input nor the read registers. -/
theorem MasterInv.withInputs {b : BusView} {s : State} (h : MasterInv b s) (r : Bit) (l : List Byte) :
    MasterInv b { s with rst := r, rreg := l } := by
  refine ⟨h.cnt_le, h.driven, h.startLow, h.startHigh, h.stopHigh, fun hst hno => ?_⟩
  have hin : InStep b s := h.inStep hst hno
  exact ⟨hin.busy, hin.fresh, hin.pos, hin.first, hin.direction, hin.addressed, hin.reading, hin.goesOn, hin.acked⟩

theorem masterInv_envClk {b : BusView} {s : State} (v : Bit) (h : MasterInv b s) (ha : asserted s = false) :
    MasterInv (b.next s (driveClk v s)) (driveClk v s) := by
  by_cases hsame : v = s.clk
  · subst hsame
    rw [driveClk_same ha, busView_next_same b rfl rfl]
    exact h
  · cases v with
    | true =>
      have hc : s.clk = false := by simpa using hsame
      have hview : sda (driveClk true s) = sda s := by rw [driveClk_rise ha hc]; rfl
      rw [busView_next_rise b hc (driveClk_clk true s), hview]
      exact masterInv_rise h ha hc
    | false =>
      have hc : s.clk = true := by simpa using hsame
      rw [busView_next_fall b hc (driveClk_clk false s)]
      exact masterInv_fall h ha hc

theorem masterInv_envSda {b : BusView} {s : State} {v : Bit} (h : MasterInv b s) (ha : asserted s = false)
    (hmay : s.clk = false ∨ v = s.envSda ∨ mayMakeCondition b v s = true) :
    MasterInv (b.next s (driveSda v s)) (driveSda v s) := by
  by_cases hsame : v = s.envSda
  · subst hsame
    have hs : driveSda s.envSda s = s := driveSda_sameWire ha rfl
    rw [hs, busView_next_same b rfl rfl]
    exact h
  · cases hc : s.clk with
    | false =>
      have hview : b.next s (driveSda v s) = b := by simp [BusView.next, hc]
      rw [hview]
      exact masterInv_dataBit h v ha hc
    | true =>
      have hmake : mayMakeCondition b v s = true := (hmay.resolve_left (by simp [hc])).resolve_left hsame
      exact masterInv_condition h ha hc hsame hmake

/-- Every move of a well-formed master keeps the invariant; reset establishes it. -/
theorem masterInv_move {b : BusView} {m : MasterMove} {s : State} (h : MasterInv b s)
    (hmay : masterMay b m s = true) :
    MasterInv (b.next s (applyInstr m.event s)) (applyInstr m.event s) := by
  have e : EventStep s (applyInstr m.event s) := masterMay_event hmay
  cases ha : asserted (applyInstr m.event s) with
  | true => exact masterInv_of_asserted _ ha (event_asserted_held e ha)
  | false =>
    obtain ⟨i, intent⟩ := m
    cases i with
    | envClk v => exact masterInv_envClk v h ((asserted_driveClk v s).symm.trans ha)
    | envSda v =>
      refine masterInv_envSda h ((asserted_driveSda v s).symm.trans ha) ?_
      simpa [masterMay, or_assoc] using hmay
    | rst v =>
      have hrun : applyInstr (.rst v) s = { s with rst := v } :=
        driveRst_running v ((asserted_react s { s with rst := v }).symm.trans ha)
      have hview : b.next s { s with rst := v } = b := busView_next_same b rfl rfl
      rw [hrun, hview]
      exact h.withInputs v s.rreg
    | rreg k v =>
      have happly : applyInstr (.rreg k v) s = applyRreg k.toNat v s :=
        applyInstr_rreg v (by simpa [masterMay] using hmay)
      rw [happly] at ha
      have hrun : applyInstr (.rreg k v) s = setRreg s k.toNat v :=
        happly.trans (applyRreg_running _ _ ((asserted_react s (setRreg s k.toNat v)).symm.trans ha))
      have hview : b.next s (setRreg s k.toNat v) = b := busView_next_same b rfl rfl
      rw [hrun, hview]
      exact h.withInputs s.rst _
    | clkRise _ | clkFall _ | start | dataFallL | stop | dataRiseL => cases hmay
    | addrR _ _ | addrW _ _ | addrNm _ _ _ | idx _ _ | wdata _ _ => cases hmay
    | rdataA _ | rdataN _ | idleFrame _ _ => cases hmay

/-- In the slots it drives the engine meets a master that receives. -/
theorem not_conflictAt {b : BusView} {m : MasterMove} {s : State} (h : MasterInv b s)
    (hmay : masterMay b m s = true) : conflictAt m s = false := by
  rw [← Bool.not_eq_true, conflictAt_iff]
  rintro ⟨hc, hrise, hneeds, -, hlow⟩
  obtain ⟨i, intent⟩ := m
  cases i with
  | envClk v =>
    obtain rfl : v = true := (driveClk_clk v s).symm.trans hrise
    have hraise : mayRaiseClk b intent s = true := by simpa [masterMay, hc] using hmay
    obtain ⟨hslot, -⟩ := (mayRaiseClk_iff b intent s).1 hraise
    obtain ⟨-, rfl⟩ := hslot (h.driven hlow)
    cases hneeds
  | envSda v => cases hc.symm.trans ((driveSda_clk v s).symm.trans hrise)
  | rst v => cases hc.symm.trans ((react_inputs s { s with rst := v }).1.symm.trans hrise)
  | rreg k v =>
    rw [applyInstr_rreg v (by simpa [masterMay] using hmay)] at hrise
    cases hc.symm.trans ((react_inputs s (setRreg s k.toNat v)).1.symm.trans hrise)
  | clkRise _ | clkFall _ | start | dataFallL | stop | dataRiseL => cases hmay
  | addrR _ _ | addrW _ _ | addrNm _ _ _ | idx _ _ | wdata _ _ => cases hmay
  | rdataA _ | rdataN _ | idleFrame _ _ => cases hmay

/-! ### Runs of a well-formed master (rule R311) -/

/-- Along a well-formed master's run no conflict occurs. -/
theorem driveConflict_of_masterInv (work : List MasterMove) {b : BusView} {s : State} (h : MasterInv b s)
    (hwf : wellFormedMaster work b s = true) : DriveConflict work s = false := by
  induction work generalizing b s with
  | nil => rfl
  | cons m ms ih =>
    obtain ⟨hmay, hrest⟩ := Bool.and_eq_true_iff.1 hwf
    rw [DriveConflict_cons, not_conflictAt h hmay, ih (masterInv_move h hmay) hrest]
    rfl

/-- Every point of a well-formed master's run meets the invariant, with some view of the bus. -/
theorem masterInv_take (work : List MasterMove) {b : BusView} {s : State} (h : MasterInv b s)
    (hwf : wellFormedMaster work b s = true) (n : Nat) :
    ∃ b', MasterInv b' (runItems ((work.take n).map MasterMove.event) s) := by
  induction work generalizing b s n with
  | nil => exact ⟨b, by simpa using h⟩
  | cons m ms ih =>
    obtain ⟨hmay, hrest⟩ := Bool.and_eq_true_iff.1 hwf
    cases n with
    | zero => exact ⟨b, h⟩
    | succ n => exact ih (masterInv_move h hmay) hrest n

/-- A run of host events that ends with reset asserted ends with the registers at their reset values. -/
theorem heldInReset_runItems {boot : List Instr} {s : State} (hne : boot ≠ [])
    (hboot : ∀ i ∈ boot, isHostEvent i = true ∧ i.wellFormed s.cfg = true)
    (ha : asserted (runItems boot s) = true) : heldInReset (runItems boot s) = true := by
  obtain ⟨init, i, rfl⟩ := List.eq_nil_or_concat boot |>.resolve_left hne
  obtain ⟨hi, hw⟩ := hboot i (by simp)
  rw [← runItems_cfg init s] at hw
  rw [List.concat_eq_append, runItems_append] at ha ⊢
  exact event_asserted_held (applyInstr_event hi hw) ha

/-- Settles O42: reset takes the engine out of whatever the bus is doing, and from there on it is in step
with the bus or in no transfer. -/
theorem wellFormedMasterSeesNoConflict : Obligations.WellFormedMasterSeesNoConflict := by
  intro c boot work b s hbooted ha hwf
  obtain ⟨hevents, hreset, -, -, -⟩ := (booted_iff _ _ _ _).1 hbooted
  have hne : boot ≠ [] := by
    rintro rfl
    cases hreset
  have hheld := heldInReset_runItems hne (fun i hi => hevents i (by simp [hi])) ha
  have hinv : MasterInv b (runItems boot s) := masterInv_of_asserted b ha hheld
  refine ⟨driveConflict_of_masterInv work hinv hwf, fun n hlow => ?_⟩
  obtain ⟨b', h⟩ := masterInv_take work hinv hwf n
  exact h.driven hlow

/-! ### What an engine with another register file does (rules R45, R140) -/

/-- The same machine with another register file. -/
def withFile (w r : List Byte) (s : State) : State := { s with wreg := w, rreg := r }

/-- A falling edge reads the write registers for themselves only, and the read registers for the load
only. -/
theorem fallingEdge_withFile {w r : List Byte} {s : State} (hout : nextOut (withFile w r s) = nextOut s) :
    fallingEdge (withFile w r s) = withFile (nextWreg (withFile w r s)) r (fallingEdge s) := by
  rw [fallingEdge, hout]
  rfl

theorem clkHandler_withFile {c : Bit} {w r : List Byte} {s : State}
    (hout : c = true → s.clk = false → nextOut (withFile w r s) = nextOut s) :
    ∃ w', clkHandler c (withFile w r s) = withFile w' r (clkHandler c s) := by
  have hclk : (withFile w r s).clk = s.clk := rfl
  unfold clkHandler
  rw [hclk]
  split
  · exact ⟨w, rfl⟩
  · split
    · next hf =>
      obtain ⟨hc, hlow⟩ : c = true ∧ s.clk = false := by simpa using hf
      exact ⟨_, fallingEdge_withFile (hout hc hlow)⟩
    · exact ⟨w, rfl⟩

theorem dataHandler_withFile (d : Bit) (w r : List Byte) (s : State) :
    dataHandler d (withFile w r s) = withFile w r (dataHandler d s) := by
  have hsda : sda (withFile w r s) = sda s := rfl
  unfold dataHandler
  rw [hsda]
  split
  · rfl
  · split <;> rfl

/-- Processing an event moves the register file apart from everything else, where the loads agree. -/
theorem react_withFile {w0 r0 w r : List Byte} {s0 s : State}
    (hout : asserted s = false → s0.clk = true → s.clk = false → nextOut (withFile w r s) = nextOut s) :
    ∃ w', react (withFile w0 r0 s0) (withFile w r s) = withFile w' r (react s0 s) := by
  cases ha : asserted s with
  | true =>
    have ha' : asserted (withFile w r s) = true := ha
    rw [react_asserted ha, react_asserted ha']
    exact ⟨_, rfl⟩
  | false =>
    have ha' : asserted (withFile w r s) = false := ha
    obtain ⟨w', hw'⟩ := clkHandler_withFile (c := s0.clk) (hout ha)
    have hline : (withFile w0 r0 s0).clk = s0.clk := rfl
    have hsda : sda (withFile w0 r0 s0) = sda s0 := rfl
    rw [react_running ha, react_running ha', hline, hsda, hw', dataHandler_withFile]
    exact ⟨w', rfl⟩

/-- What processing an event does to the write registers (rules R46, R179, R182). -/
theorem react_wreg (s0 s : State) : (react s0 s).wreg =
    if asserted s = true then wregUnderReset s
    else if s0.clk = true ∧ s.clk = false then nextWreg s else s.wreg := by
  cases ha : asserted s with
  | true => simp [react_asserted ha]
  | false =>
    rw [react_running ha]
    have hclk : (clkHandler s0.clk s).wreg = if s0.clk = true ∧ s.clk = false then nextWreg s else s.wreg := by
      cases h0 : s0.clk <;> cases h1 : s.clk <;> simp [clkHandler, h1]
    obtain hd | hd | hd := dataHandler_cases (sda s0) (clkHandler s0.clk s) <;> rw [hd] <;> simpa using hclk

/-! ### A host event's own input (rule R91) -/

/-- The state with a host event's input written, before the event is processed. -/
def withInputOf (i : Instr) (s : State) : State :=
  match i with
  | .envClk v => { s with clk := v }
  | .envSda v => { s with envSda := v }
  | .rst v => { s with rst := v }
  | .rreg k v => setRreg s k.toNat v
  | _ => s

/-- The read registers with a host event's input written (rule R203). -/
def rregWithInputOf (i : Instr) (r : List Byte) : List Byte :=
  match i with
  | .rreg k v => r.set k.toNat v
  | _ => r

theorem withInputOf_rreg (i : Instr) (s : State) : (withInputOf i s).rreg = rregWithInputOf i s.rreg := by
  cases i <;> rfl

theorem withInputOf_wreg (i : Instr) (s : State) : (withInputOf i s).wreg = s.wreg := by
  cases i <;> rfl

theorem withInputOf_cfg (i : Instr) (s : State) : (withInputOf i s).cfg = s.cfg := by
  cases i <;> rfl

theorem withInputOf_withFile (i : Instr) (w r : List Byte) (s : State) :
    withInputOf i (withFile w r s) = withFile w (rregWithInputOf i r) (withInputOf i s) := by
  cases i <;> rfl

/-- The flags and slots of a falling edge read no input. -/
theorem edgeFlags_withInputOf (i : Instr) (s : State) :
    loads (withInputOf i s) = loads s ∧ readSlot (withInputOf i s) = readSlot s ∧
      writeStrobe (withInputOf i s) = writeStrobe s ∧ writeSlot (withInputOf i s) = writeSlot s := by
  cases i <;> exact ⟨rfl, rfl, rfl, rfl⟩

/-- The moment at which `i` happens in `s`. -/
def momentOf (i : Instr) (s : State) : RunMoment := ⟨s, i, applyInstr i s⟩

theorem momentOf_falls (i : Instr) (s : State) :
    (momentOf i s).falls = (s.clk && !(applyInstr i s).clk && !asserted (applyInstr i s)) := rfl

theorem applyInstr_hostEvent {i : Instr} {s : State} (hi : isHostEvent i = true) (hw : i.wellFormed s.cfg = true) :
    applyInstr i s = react s (withInputOf i s) := by
  cases i with
  | envClk _ | envSda _ | rst _ => rfl
  | rreg k v => exact applyInstr_rreg v (of_decide_eq_true hw)
  | clkRise _ | clkFall _ | start | dataFallL | stop | dataRiseL => cases hi
  | addrR _ _ | addrW _ _ | addrNm _ _ _ | idx _ _ | wdata _ _ => cases hi
  | rdataA _ | rdataN _ | idleFrame _ _ => cases hi

/-! ### Agreement of two runs (rules R295, R296) -/

/-- The two machines are built alike and stand in the same environment. -/
structure SameLines (s s' : State) : Prop where
  cfg : s'.cfg = s.cfg
  clk : s'.clk = s.clk
  envSda : s'.envSda = s.envSda
  rst : s'.rst = s.rst
  input : s'.input = s.input

theorem SameLines.asserted {s s' : State} (h : SameLines s s') : asserted s' = Machine.asserted s :=
  asserted_congr h.cfg h.rst

theorem SameLines.withInputOf {s s' : State} (h : SameLines s s') (i : Instr) :
    SameLines (withInputOf i s) (Machine.withInputOf i s') := by
  obtain ⟨hcfg, hclk, henv, hrst, hin⟩ := h
  cases i with
  | envClk v => exact ⟨hcfg, rfl, henv, hrst, hin⟩
  | envSda v => exact ⟨hcfg, hclk, rfl, hrst, hin⟩
  | rst v => exact ⟨hcfg, hclk, henv, rfl, hin⟩
  | rreg k v => exact ⟨hcfg, hclk, henv, hrst, hin⟩
  | _ => exact ⟨hcfg, hclk, henv, hrst, hin⟩

theorem SameLines.react {s s' u u' : State} (h : SameLines u u') : SameLines (react s u) (Machine.react s' u') := by
  obtain ⟨hclk, henv, hrst, -⟩ := react_inputs s u
  obtain ⟨hclk', henv', hrst', -⟩ := react_inputs s' u'
  constructor
  case cfg => rw [react_cfg, react_cfg, h.cfg]
  case clk => rw [hclk, hclk', h.clk]
  case envSda => rw [henv, henv', h.envSda]
  case rst => rw [hrst, hrst', h.rst]
  case input => rw [react_input, react_input, h.input]

/-- Reset forgets every register but those of the register file. -/
theorem SameLines.resetRegisters {s s' : State} (h : SameLines s s') :
    resetRegisters s' = withFile (wregUnderReset s') s'.rreg (Machine.resetRegisters s) := by
  simp [Machine.resetRegisters, withFile, h.cfg, h.clk, h.envSda, h.rst, h.input]

/-- What a run with the log `l` has made of two draws: before the first reset the lines and the read
registers that the application has written agree; from then on every register outside the register file
does, and so do the write registers that reset has cleared or a strobe has written. -/
structure DrawForgotten (l : BootLog) (s s' : State) : Prop where
  inRange : poweredUp s = true
  inRange' : poweredUp s' = true
  lines : SameLines s s'
  written : ∀ k, k ∈ l.written → s'.rreg[k]? = s.rreg[k]?
  noStrobe : l.reset = false → l.strobed = []
  registers : l.reset = true → ∃ w r, s' = withFile w r s
  stored : l.reset = true → ∀ j, (s.cfg.wregReset = .clear ∨ j ∈ l.strobed) → s'.wreg[j]? = s.wreg[j]?

theorem DrawForgotten.lengths {l : BootLog} {s s' : State} (h : DrawForgotten l s s') :
    s'.wreg.length = s.wreg.length ∧ s'.rreg.length = s.rreg.length := by
  obtain ⟨-, hmem, -⟩ := (poweredUp_iff s).1 h.inRange
  obtain ⟨-, hmem', -⟩ := (poweredUp_iff s').1 h.inRange'
  obtain ⟨hw, hr, -, -⟩ := (memory_wf_iff s).1 hmem
  obtain ⟨hw', hr', -, -⟩ := (memory_wf_iff s').1 hmem'
  rw [hw, hr, hw', hr', h.lines.cfg]
  exact ⟨rfl, rfl⟩

theorem mem_withSlot {l : List Nat} {o : Option Nat} {k : Nat} : k ∈ withSlot l o ↔ o = some k ∨ k ∈ l := by
  cases o <;> simp [withSlot, eq_comm]

/-- The register the application writes now agrees from now on. -/
theorem getElem?_rregWithInputOf {i : Instr} {l : List Nat} {r r' : List Byte}
    (hlen : r'.length = r.length) (h : ∀ k, k ∈ l → r'[k]? = r[k]?) (s : State) {k : Nat}
    (hk : k ∈ withSlot l (momentOf i s).rregWrite) :
    (rregWithInputOf i r')[k]? = (rregWithInputOf i r)[k]? := by
  cases i with
  | rreg n v =>
    have hk' : n.toNat = k ∨ k ∈ l := by simpa [mem_withSlot, momentOf, RunMoment.rregWrite] using hk
    by_cases hn : n.toNat = k
    · simp [rregWithInputOf, hn, hlen, List.getElem?_set]
    · simpa [rregWithInputOf, List.getElem?_set, hn] using h k (hk'.resolve_left hn)
  | _ => exact h k hk

/-! ### The load edges that a Booted run allows (rule R296 item 5) -/

/-- An admitted map names slots below its count only (rule R12). -/
theorem lt_of_slotOf {count : Nat} {m : List (Option Nat)} (h : mapWellFormed count m = true) {p : Byte} {k : Nat}
    (hk : slotOf m p = some k) : k < count := by
  simp only [mapWellFormed, Bool.and_eq_true, List.all_eq_true] at h
  obtain ⟨⟨-, hbound⟩, -⟩ := h
  rw [slotOf, Option.join_eq_some_iff] at hk
  simpa using hbound _ (List.mem_of_getElem? hk)

theorem readSlot_lt {s : State} (h : s.cfg.wellFormed = true) {k : Nat} (hk : readSlot s = some k) :
    k < s.cfg.nr := by
  obtain ⟨-, hrmap⟩ := Bool.and_eq_true_iff.1 h
  exact lt_of_slotOf hrmap hk

/-- A claim that expects every read register to be read lets a load take written registers only. -/
theorem written_of_loadCovered {c : BootClaim} {l : BootLog} {m : RunMoment} {k : Nat}
    (hcov : loadCovered c l m = true) (hclaim : k ∈ c.rregs) (hfalls : m.falls = true)
    (hload : loads m.before = true) (hslot : readSlot m.before = some k) : k ∈ l.written := by
  have hedge : m.loadEdge = some k := by simp [RunMoment.loadEdge, hfalls, hload, hslot]
  simpa [loadCovered, hedge, hclaim] using hcov

/-- The load reads one read register (rule R200). -/
theorem nextOut_withFile {w r : List Byte} {s : State}
    (h : ∀ k, loads s = true → readSlot s = some k → r[k]? = s.rreg[k]?) : nextOut (withFile w r s) = nextOut s := by
  have hloads : loads (withFile w r s) = loads s := rfl
  cases hl : loads s with
  | false =>
    rw [nextOut_of_not_loads hl, nextOut_of_not_loads (hloads.trans hl)]
    rfl
  | true =>
    obtain ⟨-, hsome, -⟩ := (loads_iff s).1 hl
    obtain ⟨k, hk⟩ := Option.isSome_iff_exists.1 hsome
    have hk' : readSlot (withFile w r s) = some k := hk
    rw [nextOut_of_loads hl hk, nextOut_of_loads (hloads.trans hl) hk', rread, rread, List.getD_eq_getElem?_getD,
      List.getD_eq_getElem?_getD, ← h k hl hk]
    rfl

/-- A slot that agreed, or that the strobe writes, agrees after the edge (rule R179). -/
theorem nextWreg_withFile_getElem? {w r : List Byte} {s : State} {j : Nat} (hlen : w.length = s.wreg.length)
    (h : w[j]? = s.wreg[j]? ∨ (writeStrobe s = true ∧ writeSlot s = some j)) :
    (nextWreg (withFile w r s))[j]? = (nextWreg s)[j]? := by
  have hstrobe : writeStrobe (withFile w r s) = writeStrobe s := rfl
  have hslot : writeSlot (withFile w r s) = writeSlot s := rfl
  rw [nextWreg_getElem?, nextWreg_getElem?, hstrobe, hslot]
  change (if writeStrobe s = true ∧ writeSlot s = some j ∧ j < w.length then some s.inSr else w[j]?) = _
  rw [hlen]
  split
  · rfl
  · next hno =>
    obtain hsame | ⟨hs, hj⟩ := h
    · exact hsame
    · have hout : s.wreg.length ≤ j := Nat.le_of_not_lt fun hlt => hno ⟨hs, hj, hlt⟩
      rw [List.getElem?_eq_none hout, List.getElem?_eq_none (hlen ▸ hout)]

theorem strobe_eq_some {m : RunMoment} {j : Nat} (h : m.strobe = some j) :
    m.falls = true ∧ writeStrobe m.before = true ∧ writeSlot m.before = some j := by
  unfold RunMoment.strobe at h
  split at h
  · next hcond =>
    obtain ⟨hfalls, hstrobe⟩ := Bool.and_eq_true_iff.1 hcond
    exact ⟨hfalls, hstrobe, h⟩
  · cases h

/-! ### One event of a Booted run -/

section Move
variable {c : BootClaim} {l : BootLog} {s s' : State} {i : Instr}

variable (h : DrawForgotten l s s')
include h

/-- A load takes a register that the application has written alike in both runs. -/
theorem DrawForgotten.nextOut_move (hclaim : ∀ k, k < s.cfg.nr → k ∈ c.rregs)
    (hcov : loadCovered c l (momentOf i s) = true) (hfalls : (momentOf i s).falls = true) (w : List Byte) :
    nextOut (withFile w (rregWithInputOf i s'.rreg) (withInputOf i s)) = nextOut (withInputOf i s) := by
  obtain ⟨hloads, hread, -, -⟩ := edgeFlags_withInputOf i s
  obtain ⟨hcfg, -, -⟩ := (poweredUp_iff s).1 h.inRange
  refine nextOut_withFile fun k hload hslot => ?_
  rw [hloads] at hload
  rw [hread] at hslot
  have hwritten : k ∈ l.written :=
    written_of_loadCovered hcov (hclaim k (readSlot_lt hcfg hslot)) hfalls hload hslot
  rw [withInputOf_rreg]
  exact getElem?_rregWithInputOf h.lengths.2 h.written s (mem_withSlot.2 (.inr hwritten))

variable (hi : isHostEvent i = true) (hw : i.wellFormed s.cfg = true)
include hi hw

/-- Both runs process the event, each with its own register file. -/
theorem DrawForgotten.processed :
    applyInstr i s = react s (withInputOf i s) ∧ applyInstr i s' = react s' (withInputOf i s') ∧
      SameLines (withInputOf i s) (withInputOf i s') :=
  ⟨applyInstr_hostEvent hi hw, applyInstr_hostEvent hi (h.lines.cfg ▸ hw), h.lines.withInputOf i⟩

theorem DrawForgotten.written_move {k : Nat} (hk : k ∈ (l.note (momentOf i s)).written) :
    (applyInstr i s').rreg[k]? = (applyInstr i s).rreg[k]? := by
  obtain ⟨ht, ht', -⟩ := h.processed hi hw
  obtain ⟨-, -, -, hr⟩ := react_inputs s (withInputOf i s)
  obtain ⟨-, -, -, hr'⟩ := react_inputs s' (withInputOf i s')
  rw [ht, ht', hr, hr', withInputOf_rreg, withInputOf_rreg]
  exact getElem?_rregWithInputOf h.lengths.2 h.written s hk

/-- An event after which reset is not asserted falls where CLK does. -/
theorem DrawForgotten.falls_iff (ha : asserted (withInputOf i s) = false) :
    (momentOf i s).falls = true ↔ s.clk = true ∧ (withInputOf i s).clk = false := by
  obtain ⟨ht, -, -⟩ := h.processed hi hw
  simp [momentOf_falls, ht, asserted_react, ha, (react_inputs s (withInputOf i s)).1]

/-- An event that asserts reset gives the registers outside the file their reset values in both runs; any
other event of a run that has been reset makes the same edges from the same values. -/
theorem DrawForgotten.registers_move (hclaim : ∀ k, k < s.cfg.nr → k ∈ c.rregs)
    (hcov : l.reset = true → loadCovered c l (momentOf i s) = true)
    (hreset : (l.note (momentOf i s)).reset = true) : ∃ w r, applyInstr i s' = withFile w r (applyInstr i s) := by
  obtain ⟨ht, ht', hlines⟩ := h.processed hi hw
  cases ha : asserted (withInputOf i s) with
  | true =>
    rw [ht, ht', react_asserted ha, react_asserted (hlines.asserted.trans ha)]
    exact ⟨_, _, hlines.resetRegisters⟩
  | false =>
    have hl : l.reset = true := by simpa [momentOf, ht, asserted_react, ha] using hreset
    obtain ⟨w, r, rfl⟩ := h.registers hl
    rw [ht, ht', withInputOf_withFile]
    obtain ⟨w', hw'⟩ := react_withFile (w0 := w) (r0 := r) (w := w) (r := rregWithInputOf i r)
      fun _ hc hlow => h.nextOut_move hclaim (hcov hl) ((h.falls_iff hi hw ha).2 ⟨hc, hlow⟩) w
    exact ⟨w', _, hw'⟩

/-- Reset clears the write registers in both runs, or leaves them as they agreed (rule R46). -/
theorem DrawForgotten.stored_move_asserted (ha : asserted (withInputOf i s) = true) {j : Nat}
    (hj : s.cfg.wregReset = .clear ∨ j ∈ (l.note (momentOf i s)).strobed) :
    (applyInstr i s').wreg[j]? = (applyInstr i s).wreg[j]? := by
  obtain ⟨ht, ht', hlines⟩ := h.processed hi hw
  have hfalls : (momentOf i s).falls = false := by simp [momentOf_falls, ht, asserted_react, ha]
  have hstrobe : (momentOf i s).strobe = none := by simp [RunMoment.strobe, hfalls]
  rw [ht, ht', react_asserted ha, react_asserted (hlines.asserted.trans ha), resetRegisters_wreg,
    resetRegisters_wreg, wregUnderReset, wregUnderReset, hlines.cfg, withInputOf_cfg, withInputOf_wreg,
    withInputOf_wreg]
  cases hk : s.cfg.wregReset with
  | clear => rfl
  | keep =>
    rw [note_strobed, hstrobe, hk] at hj
    cases hl : l.reset with
    | true => exact h.stored hl j (.inr (by simpa [hl, withSlot] using hj))
    | false => simp [hl, h.noStrobe hl] at hj

/-- Without reset a strobe stores one byte in both runs, and nothing else moves a write register (rules
R179, R182). -/
theorem DrawForgotten.stored_move_running (ha : asserted (withInputOf i s) = false) (hl : l.reset = true) {j : Nat}
    (hj : s.cfg.wregReset = .clear ∨ j ∈ (l.note (momentOf i s)).strobed) :
    (applyInstr i s').wreg[j]? = (applyInstr i s).wreg[j]? := by
  obtain ⟨ht, ht', -⟩ := h.processed hi hw
  have hagree : s'.wreg[j]? = s.wreg[j]? ∨ (momentOf i s).strobe = some j := by
    rw [note_strobed, hl, if_pos rfl, mem_withSlot, or_left_comm] at hj
    exact hj.symm.imp_left (h.stored hl j)
  have hlen := h.lengths.1
  have hfalls := h.falls_iff hi hw ha
  obtain ⟨w, r, rfl⟩ := h.registers hl
  have ha' : asserted (withFile w (rregWithInputOf i r) (withInputOf i s)) = false := ha
  rw [ht, ht', withInputOf_withFile, react_wreg, react_wreg, ha, ha']
  by_cases hfall : s.clk = true ∧ (withInputOf i s).clk = false
  · obtain ⟨-, -, hflag, hslot⟩ := edgeFlags_withInputOf i s
    rw [if_neg Bool.false_ne_true, if_neg Bool.false_ne_true, if_pos hfall]
    refine (congrArg (·[j]?) (if_pos hfall)).trans (nextWreg_withFile_getElem? ?_ ?_)
    · rwa [withInputOf_wreg]
    · rw [withInputOf_wreg, hflag, hslot]
      exact hagree.imp_right fun hs => (strobe_eq_some hs).2
  · rw [if_neg Bool.false_ne_true, if_neg Bool.false_ne_true, if_neg hfall, withInputOf_wreg]
    refine (congrArg (·[j]?) (if_neg hfall)).trans (hagree.resolve_right fun hs => ?_)
    exact hfall (hfalls.1 (strobe_eq_some hs).1)

/-- One event of a Booted run. -/
theorem DrawForgotten.move (hclaim : ∀ k, k < s.cfg.nr → k ∈ c.rregs)
    (hcov : l.reset = true → loadCovered c l (momentOf i s) = true) :
    DrawForgotten (l.note (momentOf i s)) (applyInstr i s) (applyInstr i s') := by
  obtain ⟨ht, ht', hlines⟩ := h.processed hi hw
  have hcfg : (applyInstr i s).cfg = s.cfg := runItems_cfg [i] s
  constructor
  case inRange => exact poweredUp_event (applyInstr_event hi hw) h.inRange
  case inRange' => exact poweredUp_event (applyInstr_event hi (h.lines.cfg ▸ hw)) h.inRange'
  case lines =>
    rw [ht, ht']
    exact hlines.react
  case written => exact fun k => h.written_move hi hw
  case noStrobe =>
    intro hreset
    have hl : l.reset = false := (Bool.or_eq_false_iff.1 hreset).1
    simp [hl, h.noStrobe hl]
  case registers => exact h.registers_move hi hw hclaim hcov
  case stored =>
    intro hreset j hj
    rw [hcfg] at hj
    cases ha : asserted (withInputOf i s) with
    | true => exact h.stored_move_asserted hi hw ha hj
    | false =>
      have hl : l.reset = true := by simpa [momentOf, ht, asserted_react, ha] using hreset
      exact h.stored_move_running hi hw ha hl hj

end Move

/-! ### Booted runs (rules R295, R296) -/

theorem bootKept_head {c : BootClaim} {m : RunMoment} {ms : List RunMoment} {l : BootLog}
    (h : bootKept c (m :: ms) l = true) :
    (l.reset = true → loadCovered c l m = true) ∧ bootKept c ms (l.note m) = true := by
  rw [bootKept_cons] at h
  obtain ⟨hm, hms⟩ := Bool.and_eq_true_iff.1 h
  refine ⟨fun hl => ?_, hms⟩
  rw [hl, Bool.not_true, Bool.false_or] at hm
  exact (Bool.and_eq_true_iff.1 hm).2

/-- Two draws along one run, by induction on its events. -/
theorem DrawForgotten.run {c : BootClaim} (is : List Instr) {l : BootLog} {s s' : State} (h : DrawForgotten l s s')
    (hevents : ∀ i ∈ is, isHostEvent i = true ∧ i.wellFormed s.cfg = true)
    (hclaim : ∀ k, k < s.cfg.nr → k ∈ c.rregs) (hkept : bootKept c (runMoments is s) l = true) :
    DrawForgotten (bootLog (runMoments is s) l) (runItems is s) (runItems is s') := by
  induction is generalizing l s s' with
  | nil => exact h
  | cons i is ih =>
    obtain ⟨hi, hw⟩ := hevents i (by simp)
    obtain ⟨hcov, hrest⟩ := bootKept_head hkept
    have hcfg : (applyInstr i s).cfg = s.cfg := runItems_cfg [i] s
    refine ih (h.move hi hw hclaim hcov) (fun j hj => ?_) (hcfg ▸ hclaim) hrest
    rw [hcfg]
    exact hevents j (by simp [hj])

/-- A slot that a strobe has written stays in the log. -/
theorem strobed_bootLog {j : Nat} (ms : List RunMoment) {l : BootLog} (h : j ∈ l.strobed) :
    j ∈ (bootLog ms l).strobed := by
  induction ms generalizing l with
  | nil => exact h
  | cons m ms ih =>
    refine ih ?_
    rw [note_strobed]
    split
    · exact mem_withSlot.2 (.inr h)
    · exact h

/-- Settles O58: from the empty log on, where only the lines are known to agree, to the end of the run,
whose log holds the reset and the strobes of its boot part. -/
theorem bootedRunForgetsThePowerUpDraw : Obligations.BootedRunForgetsThePowerUpDraw := by
  intro c boot work s s' hpow hpow' hcfg hclk henv hrst hin hclaim hbooted t t'
  obtain ⟨hevents, hreset, -, hstrobed, hkept⟩ := (booted_iff _ _ _ _).1 hbooted
  have hstart : DrawForgotten .empty s s' := by
    refine ⟨hpow, hpow', ⟨hcfg, hclk, henv, hrst, hin⟩, fun _ hk => ?_, fun _ => rfl, ?_, ?_⟩
    · cases hk
    · simp [BootLog.empty]
    · simp [BootLog.empty]
  have hend := hstart.run (boot ++ work) hevents hclaim hkept
  rw [runMoments_append, bootLog_append] at hend
  have hlog := bootLog_reset (runMoments work (runItems boot s)) hreset
  refine ⟨?_, fun j hj => hend.stored hlog j ?_⟩
  · obtain ⟨w, r, hfile⟩ := hend.registers hlog
    show ({ runItems (boot ++ work) s' with wreg := t.wreg, rreg := t.rreg } : State) = t
    rw [hfile]
    rfl
  · rw [runItems_cfg]
    exact hstrobed.imp_right fun hall => strobed_bootLog _ (hall j hj)

end Sys2Proof.Machine
